-- ==== Sys2Proof/Word.lean ====
section
/-! DEFINITION. The widths of the CHIP-8 base set (00_scope.md R8, R10, R12). -/

namespace Sys2Proof

/-- A memory cell, a general register or a timer (R8). -/
abbrev Byte := BitVec 8

/-- An instruction word, the program counter, the index register or a stack slot (R8). -/
abbrev Word := BitVec 16

/-- A register field `x` or `y` of an instruction: the number of one of V0 to VF (R12, R21). -/
abbrev RegIdx := BitVec 4

/-- The field `nnn` of an instruction: a 12-bit address (R12). -/
abbrev Addr := BitVec 12

/-- The number of the register VF (R11). -/
abbrev vf : RegIdx := 0xF#4

end Sys2Proof
end

