-- ==== Sys2Proof/Syntax.lean ====
section
/-! DEFINITION. The 35 instruction forms of the base set (30_encoding.md R84), one constructor for each row of
spec/opcode_table.json, in the table's order, with the fields of R71 and R73. -/

namespace Sys2Proof

inductive Instr where
  /-- `SYS nnn` (R100) -/
  | sys (nnn : Addr)
  /-- `CLS` (R142) -/
  | cls
  /-- `RET` (R102) -/
  | ret
  /-- `JP nnn` (R103) -/
  | jp (nnn : Addr)
  /-- `CALL nnn` (R104) -/
  | call (nnn : Addr)
  /-- `SE Vx, kk` (R105) -/
  | seImm (x : RegIdx) (kk : Byte)
  /-- `SNE Vx, kk` (R106) -/
  | sneImm (x : RegIdx) (kk : Byte)
  /-- `SE Vx, Vy` (R107) -/
  | seReg (x y : RegIdx)
  /-- `LD Vx, kk` (R122) -/
  | ldImm (x : RegIdx) (kk : Byte)
  /-- `ADD Vx, kk` (R123) -/
  | addImm (x : RegIdx) (kk : Byte)
  /-- `LD Vx, Vy` (R124) -/
  | ldReg (x y : RegIdx)
  /-- `OR Vx, Vy` (R125) -/
  | orReg (x y : RegIdx)
  /-- `AND Vx, Vy` (R126) -/
  | andReg (x y : RegIdx)
  /-- `XOR Vx, Vy` (R127) -/
  | xorReg (x y : RegIdx)
  /-- `ADD Vx, Vy` (R128) -/
  | addReg (x y : RegIdx)
  /-- `SUB Vx, Vy` (R129) -/
  | sub (x y : RegIdx)
  /-- `SHR Vx {, Vy}` (R130) -/
  | shr (x y : RegIdx)
  /-- `SUBN Vx, Vy` (R131) -/
  | subn (x y : RegIdx)
  /-- `SHL Vx {, Vy}` (R132) -/
  | shl (x y : RegIdx)
  /-- `SNE Vx, Vy` (R108) -/
  | sneReg (x y : RegIdx)
  /-- `LD I, nnn` (R181) -/
  | ldI (nnn : Addr)
  /-- `JP V0, nnn` (R109) -/
  | jpV0 (nnn : Addr)
  /-- `RND Vx, kk` (R133) -/
  | rnd (x : RegIdx) (kk : Byte)
  /-- `DRW Vx, Vy, n` (R143) -/
  | drw (x y : RegIdx) (n : BitVec 4)
  /-- `SKP Vx` (R161) -/
  | skp (x : RegIdx)
  /-- `SKNP Vx` (R162) -/
  | sknp (x : RegIdx)
  /-- `LD Vx, DT` (R165) -/
  | ldVxDt (x : RegIdx)
  /-- `LD Vx, K` (R163) -/
  | ldVxK (x : RegIdx)
  /-- `LD DT, Vx` (R166) -/
  | ldDtVx (x : RegIdx)
  /-- `LD ST, Vx` (R167) -/
  | ldStVx (x : RegIdx)
  /-- `ADD I, Vx` (R182) -/
  | addI (x : RegIdx)
  /-- `LD F, Vx` (R183) -/
  | ldF (x : RegIdx)
  /-- `LD B, Vx` (R184) -/
  | ldB (x : RegIdx)
  /-- `LD [I], Vx` (R185) -/
  | ldStore (x : RegIdx)
  /-- `LD Vx, [I]` (R186) -/
  | ldLoad (x : RegIdx)
  deriving DecidableEq, Repr

end Sys2Proof
end

