-- ==== Sys2Proof/Decode.lean ====
section
/-! DEFINITION. The decoder (30_encoding.md R70 to R78), total on any bytes, and the encoder and opcode table (R84). -/

namespace Sys2Proof

/-- Why bytes are no instruction: the reserved words of R79, by the nibble or byte that is not listed, and too few bytes. -/
inductive Reject where
  /-- `5xyN` or `9xyN` with N != 0 under `STRICT_LOW_NIBBLE = true` (R76). -/
  | lowNibble (w : Word)
  /-- `8xyN` with N in 8 to D or F (R77). -/
  | aluFunction (w : Word)
  /-- `ExKK` with KK neither 9E nor A1 (R77). -/
  | keyFunction (w : Word)
  /-- `FxKK` with KK none of the nine listed (R77). -/
  | miscFunction (w : Word)
  /-- Fewer than the two bytes of a word (R70). -/
  | truncated
  deriving DecidableEq, Repr

/-- `op = w[15:12]` (R71). -/
def opField (w : Word) : BitVec 4 := w.extractLsb' 12 4

/-- `x = w[11:8]` (R71). -/
def xField (w : Word) : RegIdx := w.extractLsb' 8 4

/-- `y = w[7:4]` (R71). -/
def yField (w : Word) : RegIdx := w.extractLsb' 4 4

/-- `n = w[3:0]` (R71). -/
def nField (w : Word) : BitVec 4 := w.extractLsb' 0 4

/-- `kk = w[7:0]` (R71). -/
def kkField (w : Word) : Byte := w.extractLsb' 0 8

/-- `nnn = w[11:0]` (R71). -/
def nnnField (w : Word) : Addr := w.extractLsb' 0 12

/-- The rows `8xyN` (R77). -/
def decodeAlu (w : Word) : Except Reject Instr :=
  if nField w = 0x0#4 then .ok (.ldReg (xField w) (yField w))
  else if nField w = 0x1#4 then .ok (.orReg (xField w) (yField w))
  else if nField w = 0x2#4 then .ok (.andReg (xField w) (yField w))
  else if nField w = 0x3#4 then .ok (.xorReg (xField w) (yField w))
  else if nField w = 0x4#4 then .ok (.addReg (xField w) (yField w))
  else if nField w = 0x5#4 then .ok (.sub (xField w) (yField w))
  else if nField w = 0x6#4 then .ok (.shr (xField w) (yField w))
  else if nField w = 0x7#4 then .ok (.subn (xField w) (yField w))
  else if nField w = 0xE#4 then .ok (.shl (xField w) (yField w))
  else .error (.aluFunction w)

/-- The rows `ExKK` (R77). -/
def decodeKey (w : Word) : Except Reject Instr :=
  if kkField w = 0x9E#8 then .ok (.skp (xField w))
  else if kkField w = 0xA1#8 then .ok (.sknp (xField w))
  else .error (.keyFunction w)

/-- The rows `FxKK` (R77). -/
def decodeMisc (w : Word) : Except Reject Instr :=
  if kkField w = 0x07#8 then .ok (.ldVxDt (xField w))
  else if kkField w = 0x0A#8 then .ok (.ldVxK (xField w))
  else if kkField w = 0x15#8 then .ok (.ldDtVx (xField w))
  else if kkField w = 0x18#8 then .ok (.ldStVx (xField w))
  else if kkField w = 0x1E#8 then .ok (.addI (xField w))
  else if kkField w = 0x29#8 then .ok (.ldF (xField w))
  else if kkField w = 0x33#8 then .ok (.ldB (xField w))
  else if kkField w = 0x55#8 then .ok (.ldStore (xField w))
  else if kkField w = 0x65#8 then .ok (.ldLoad (xField w))
  else .error (.miscFunction w)

/-- The rows with high nibble 0 (R75). -/
def decodeZero (w : Word) : Except Reject Instr :=
  if w = 0x00E0#16 then .ok .cls
  else if w = 0x00EE#16 then .ok .ret
  else .ok (.sys (nnnField w))

/-- `5xyN` and `9xyN`, whose low nibble is examined only under `STRICT_LOW_NIBBLE = true` (R76). -/
def decodeRegSkip (strict : Bool) (w : Word) (i : Instr) : Except Reject Instr :=
  if strict && nField w != 0x0#4 then .error (.lowNibble w) else .ok i

/-- The decode procedure of R74, a pure function of the word and `STRICT_LOW_NIBBLE` (R81). -/
def decodeWord (strict : Bool) (w : Word) : Except Reject Instr :=
  if opField w = 0x0#4 then decodeZero w
  else if opField w = 0x1#4 then .ok (.jp (nnnField w))
  else if opField w = 0x2#4 then .ok (.call (nnnField w))
  else if opField w = 0x3#4 then .ok (.seImm (xField w) (kkField w))
  else if opField w = 0x4#4 then .ok (.sneImm (xField w) (kkField w))
  else if opField w = 0x5#4 then decodeRegSkip strict w (.seReg (xField w) (yField w))
  else if opField w = 0x6#4 then .ok (.ldImm (xField w) (kkField w))
  else if opField w = 0x7#4 then .ok (.addImm (xField w) (kkField w))
  else if opField w = 0x8#4 then decodeAlu w
  else if opField w = 0x9#4 then decodeRegSkip strict w (.sneReg (xField w) (yField w))
  else if opField w = 0xA#4 then .ok (.ldI (nnnField w))
  else if opField w = 0xB#4 then .ok (.jpV0 (nnnField w))
  else if opField w = 0xC#4 then .ok (.rnd (xField w) (kkField w))
  else if opField w = 0xD#4 then .ok (.drw (xField w) (yField w) (nField w))
  else if opField w = 0xE#4 then decodeKey w
  else decodeMisc w

/-- The big-endian word of two bytes, the first being bits 15:8 (20_memory.md R54). -/
def wordOfBytes (hi lo : Byte) : Word := hi ++ lo

/-- The two bytes of a word, the first going to the lower address (R54, R55). -/
def bytesOfWord (w : Word) : Byte × Byte := (w.extractLsb' 8 8, w.extractLsb' 0 8)

/-- Decoding from a byte string: the instruction and the bytes after it. -/
def decodeBytes (strict : Bool) : List Byte → Except Reject (Instr × List Byte)
  | hi :: lo :: rest =>
    match decodeWord strict (wordOfBytes hi lo) with
    | .ok i => .ok (i, rest)
    | .error e => .error e
  | _ => .error .truncated

/-- The word of an instruction (R84's patterns). `5xyN` and `9xyN` are encoded with N = 0, which every value of
`STRICT_LOW_NIBBLE` decodes (R76). -/
def encode : Instr → Word
  | .sys nnn => 0x0#4 ++ nnn
  | .cls => 0x00E0#16
  | .ret => 0x00EE#16
  | .jp nnn => 0x1#4 ++ nnn
  | .call nnn => 0x2#4 ++ nnn
  | .seImm x kk => 0x3#4 ++ x ++ kk
  | .sneImm x kk => 0x4#4 ++ x ++ kk
  | .seReg x y => 0x5#4 ++ x ++ y ++ 0x0#4
  | .ldImm x kk => 0x6#4 ++ x ++ kk
  | .addImm x kk => 0x7#4 ++ x ++ kk
  | .ldReg x y => 0x8#4 ++ x ++ y ++ 0x0#4
  | .orReg x y => 0x8#4 ++ x ++ y ++ 0x1#4
  | .andReg x y => 0x8#4 ++ x ++ y ++ 0x2#4
  | .xorReg x y => 0x8#4 ++ x ++ y ++ 0x3#4
  | .addReg x y => 0x8#4 ++ x ++ y ++ 0x4#4
  | .sub x y => 0x8#4 ++ x ++ y ++ 0x5#4
  | .shr x y => 0x8#4 ++ x ++ y ++ 0x6#4
  | .subn x y => 0x8#4 ++ x ++ y ++ 0x7#4
  | .shl x y => 0x8#4 ++ x ++ y ++ 0xE#4
  | .sneReg x y => 0x9#4 ++ x ++ y ++ 0x0#4
  | .ldI nnn => 0xA#4 ++ nnn
  | .jpV0 nnn => 0xB#4 ++ nnn
  | .rnd x kk => 0xC#4 ++ x ++ kk
  | .drw x y n => 0xD#4 ++ x ++ y ++ n
  | .skp x => 0xE#4 ++ x ++ 0x9E#8
  | .sknp x => 0xE#4 ++ x ++ 0xA1#8
  | .ldVxDt x => 0xF#4 ++ x ++ 0x07#8
  | .ldVxK x => 0xF#4 ++ x ++ 0x0A#8
  | .ldDtVx x => 0xF#4 ++ x ++ 0x15#8
  | .ldStVx x => 0xF#4 ++ x ++ 0x18#8
  | .addI x => 0xF#4 ++ x ++ 0x1E#8
  | .ldF x => 0xF#4 ++ x ++ 0x29#8
  | .ldB x => 0xF#4 ++ x ++ 0x33#8
  | .ldStore x => 0xF#4 ++ x ++ 0x55#8
  | .ldLoad x => 0xF#4 ++ x ++ 0x65#8

/-- The bytes of an instruction at ascending addresses (R55). -/
def encodeBytes (i : Instr) : List Byte := [(bytesOfWord (encode i)).1, (bytesOfWord (encode i)).2]

/-- A row of R84's table: the word, masked, equals the match value. -/
structure TableRow where
  mnemonic : String
  mask : Word
  value : Word
  deriving DecidableEq, Repr

/-- The row of R84's table that an instruction belongs to, under the default `STRICT_LOW_NIBBLE = false`. -/
def tableRow : Instr → TableRow
  | .sys _ => ⟨"SYS", 0xF000#16, 0x0000#16⟩
  | .cls => ⟨"CLS", 0xFFFF#16, 0x00E0#16⟩
  | .ret => ⟨"RET", 0xFFFF#16, 0x00EE#16⟩
  | .jp _ => ⟨"JP", 0xF000#16, 0x1000#16⟩
  | .call _ => ⟨"CALL", 0xF000#16, 0x2000#16⟩
  | .seImm _ _ => ⟨"SE_imm", 0xF000#16, 0x3000#16⟩
  | .sneImm _ _ => ⟨"SNE_imm", 0xF000#16, 0x4000#16⟩
  | .seReg _ _ => ⟨"SE_reg", 0xF000#16, 0x5000#16⟩
  | .ldImm _ _ => ⟨"LD_imm", 0xF000#16, 0x6000#16⟩
  | .addImm _ _ => ⟨"ADD_imm", 0xF000#16, 0x7000#16⟩
  | .ldReg _ _ => ⟨"LD_reg", 0xF00F#16, 0x8000#16⟩
  | .orReg _ _ => ⟨"OR", 0xF00F#16, 0x8001#16⟩
  | .andReg _ _ => ⟨"AND", 0xF00F#16, 0x8002#16⟩
  | .xorReg _ _ => ⟨"XOR", 0xF00F#16, 0x8003#16⟩
  | .addReg _ _ => ⟨"ADD_reg", 0xF00F#16, 0x8004#16⟩
  | .sub _ _ => ⟨"SUB", 0xF00F#16, 0x8005#16⟩
  | .shr _ _ => ⟨"SHR", 0xF00F#16, 0x8006#16⟩
  | .subn _ _ => ⟨"SUBN", 0xF00F#16, 0x8007#16⟩
  | .shl _ _ => ⟨"SHL", 0xF00F#16, 0x800E#16⟩
  | .sneReg _ _ => ⟨"SNE_reg", 0xF000#16, 0x9000#16⟩
  | .ldI _ => ⟨"LD_I", 0xF000#16, 0xA000#16⟩
  | .jpV0 _ => ⟨"JP_V0", 0xF000#16, 0xB000#16⟩
  | .rnd _ _ => ⟨"RND", 0xF000#16, 0xC000#16⟩
  | .drw _ _ _ => ⟨"DRW", 0xF000#16, 0xD000#16⟩
  | .skp _ => ⟨"SKP", 0xF0FF#16, 0xE09E#16⟩
  | .sknp _ => ⟨"SKNP", 0xF0FF#16, 0xE0A1#16⟩
  | .ldVxDt _ => ⟨"LD_Vx_DT", 0xF0FF#16, 0xF007#16⟩
  | .ldVxK _ => ⟨"LD_Vx_K", 0xF0FF#16, 0xF00A#16⟩
  | .ldDtVx _ => ⟨"LD_DT_Vx", 0xF0FF#16, 0xF015#16⟩
  | .ldStVx _ => ⟨"LD_ST_Vx", 0xF0FF#16, 0xF018#16⟩
  | .addI _ => ⟨"ADD_I", 0xF0FF#16, 0xF01E#16⟩
  | .ldF _ => ⟨"LD_F", 0xF0FF#16, 0xF029#16⟩
  | .ldB _ => ⟨"LD_B", 0xF0FF#16, 0xF033#16⟩
  | .ldStore _ => ⟨"LD_store", 0xF0FF#16, 0xF055#16⟩
  | .ldLoad _ => ⟨"LD_load", 0xF0FF#16, 0xF065#16⟩

/-- The decoder's answer for a word given as the opcode table numbers its bits, under the default
`STRICT_LOW_NIBBLE = false`. -/
def decodeTableWord (nbits w : Nat) : Option Instr :=
  let word : Word := BitVec.ofNat 16 (w % 2 ^ nbits)
  match decodeBytes false [(bytesOfWord word).1, (bytesOfWord word).2] with
  | .ok (i, _) => some i
  | .error _ => none

end Sys2Proof
end

