-- ==== Sys2Proof/Config.lean ====
section
/-! DEFINITION. What an implementation fixes: the parameters of 00_scope.md R9, as plain data that the machine's state
carries (so that every rule is modelled for every value of them), and the free value of the entropy port. -/

namespace Sys2Proof

/-- `UNKNOWN_OPCODE_POLICY` (30_encoding.md R78; D3). -/
inductive UnknownPolicy where
  | fatal
  | skip
  deriving DecidableEq, Repr

/-- `SYS_POLICY` (40_control_flow.md R100; D2). -/
inductive SysPolicy where
  | fatal
  | nop
  deriving DecidableEq, Repr

/-- `JUMP_OVERFLOW_POLICY` (40_control_flow.md R110; D7). -/
inductive JumpPolicy where
  | mask
  | fault
  deriving DecidableEq, Repr

/-- `SHIFT_SOURCE` (41_register_alu.md R130, R132; D10). -/
inductive ShiftSource where
  | vx
  | vy
  deriving DecidableEq, Repr

/-- `LOADSTORE_I_POLICY` (44_index_memory.md R185, R186; D13). -/
inductive IndexPolicy where
  | unchanged
  | increment
  deriving DecidableEq, Repr

/-- The 80 bytes of the parameter `FONT` (10_state.md R33; D19). -/
abbrev Font := Vector Byte 80

/-- The parameters the model takes as arguments (R9). `ENTROPY` is not among them: it is `Config.entropy`. -/
structure Params where
  /-- `INSTR_RATE_HZ`, a positive number of instruction ticks a second (60_exceptions.md R221). -/
  instrRate : Nat
  unknownOpcode : UnknownPolicy
  sysPolicy : SysPolicy
  /-- `STRICT_LOW_NIBBLE` (30_encoding.md R76). -/
  strictLowNibble : Bool
  jumpOverflow : JumpPolicy
  shiftSource : ShiftSource
  indexPolicy : IndexPolicy
  font : Font
  deriving DecidableEq, Repr

/-- FREE VALUE (log entry 3). The draw the entropy port gives to the `n`-th RND executed (60_exceptions.md R233): nothing
constrains it, so a statement about it holds for every entropy source. -/
opaque Config.entropy (n : Nat) : Byte

end Sys2Proof
end

