-- ==== Sys2Proof/Machine/Memory.lean ====
section
/-! DEFINITION. The memory array (10_state.md R31 to R33, 20_memory.md R50) as a canonical list of (address, byte) cells:
addresses strictly rising, below 4096, and no cell equal to what its address reads as when unlisted. -/

namespace Sys2Proof.Machine

/-- What an address nobody has written reads as: the reset contents, FONT at 0x000 to 0x04F and 0 above (R42, R251). -/
def Memory.resetByte (font : Font) (a : Nat) : Byte :=
  if h : a < 80 then font[a] else 0#8

/-- The listed byte of an address, if there is one. -/
def Memory.lookup : List Host.Cell → Nat → Option Byte
  | [], _ => none
  | (a', b) :: rest, a => if a' = a then some b else Memory.lookup rest a

/-- The byte at an address below 4096. -/
def Memory.read (font : Font) (m : List Host.Cell) (a : Nat) : Byte :=
  (Memory.lookup m a).getD (Memory.resetByte font a)

/-- The cells with address `a` given the byte `v`, or unlisted where `v` is none. -/
def Memory.put (a : Nat) (v : Option Byte) : List Host.Cell → List Host.Cell
  | [] => (v.map (a, ·)).toList
  | (a', b) :: rest =>
    if a' < a then (a', b) :: Memory.put a v rest
    else if a' = a then (v.map (a, ·)).toList ++ rest
    else (v.map (a, ·)).toList ++ (a', b) :: rest

/-- Store one byte; storing what the address reads as unlisted removes the cell. -/
def Memory.write (font : Font) (a : Nat) (v : Byte) (m : List Host.Cell) : List Host.Cell :=
  Memory.put a (if v = Memory.resetByte font a then none else some v) m

/-- The canonical memory whose byte at `a + k` is the `k`-th of the list and which lists nothing else. -/
def Memory.ofBytes (font : Font) (a : Nat) : List Byte → List Host.Cell
  | [] => []
  | b :: rest =>
    if b = Memory.resetByte font a then Memory.ofBytes font (a + 1) rest
    else (a, b) :: Memory.ofBytes font (a + 1) rest

/-- The canonical form. -/
abbrev Memory.wf (font : Font) (m : List Host.Cell) : Prop :=
  m.Pairwise (fun c d => c.1 < d.1) ∧ ∀ c ∈ m, c.1 < 4096 ∧ c.2 ≠ Memory.resetByte font c.1

end Sys2Proof.Machine
end

