-- ==== Sys2Proof/Machine/Defaults.lean ====
section
/-! DEFINITION. This hardware's default value of every parameter of 00_scope.md R9. -/

namespace Sys2Proof.Machine

/-- The default of FONT, the standard CHIP-8 font, glyphs 0 to F at 5 bytes each (10_state.md R33; log entry 4). -/
def standardFont : Font :=
  #v[0xF0#8, 0x90#8, 0x90#8, 0x90#8, 0xF0#8,  0x20#8, 0x60#8, 0x20#8, 0x20#8, 0x70#8,
     0xF0#8, 0x10#8, 0xF0#8, 0x80#8, 0xF0#8,  0xF0#8, 0x10#8, 0xF0#8, 0x10#8, 0xF0#8,
     0x90#8, 0x90#8, 0xF0#8, 0x10#8, 0x10#8,  0xF0#8, 0x80#8, 0xF0#8, 0x10#8, 0xF0#8,
     0xF0#8, 0x80#8, 0xF0#8, 0x90#8, 0xF0#8,  0xF0#8, 0x10#8, 0x20#8, 0x40#8, 0x40#8,
     0xF0#8, 0x90#8, 0xF0#8, 0x90#8, 0xF0#8,  0xF0#8, 0x90#8, 0xF0#8, 0x10#8, 0xF0#8,
     0xF0#8, 0x90#8, 0xF0#8, 0x90#8, 0x90#8,  0xE0#8, 0x90#8, 0xE0#8, 0x90#8, 0xE0#8,
     0xF0#8, 0x80#8, 0x80#8, 0x80#8, 0xF0#8,  0xE0#8, 0x90#8, 0x90#8, 0x90#8, 0xE0#8,
     0xF0#8, 0x80#8, 0xF0#8, 0x80#8, 0xF0#8,  0xF0#8, 0x80#8, 0xF0#8, 0x80#8, 0x80#8]

/-- The default of every parameter (R9). -/
def defaultParams : Params where
  instrRate := 500
  unknownOpcode := .fatal
  sysPolicy := .fatal
  strictLowNibble := false
  jumpOverflow := .mask
  shiftSource := .vx
  indexPolicy := .unchanged
  font := standardFont

end Sys2Proof.Machine
end

