-- ==== Sys2Proof/Machine/State.lean ====
section
/-! DEFINITION. The state record of 10_state.md R20, its reset value (R42), and the reasons a step can stop. -/

namespace Sys2Proof.Machine

/-- Why a step faults. It has no constructor: every rule of the spec gives a next state. A fatal condition (60_exceptions.md
R200) is one, since the block goes on in its halted state (R201, R206, R207): see `ErrKind` and `State.raise`. -/
inductive Fault where
  deriving DecidableEq, Repr

/-- Why a step is refused. -/
inductive Refusal where
  /-- Answered only by an arm of `exec` that has no meaning yet; no arm does. Safe: it stops where the hardware goes on. -/
  | notModelled (mnemonic : String)
  deriving DecidableEq, Repr

/-- `err_kind` (60_exceptions.md R200). -/
inductive ErrKind where
  /-- no condition -/
  | none
  /-- an Unknown word, or SYS under `SYS_POLICY = fatal` (R202) -/
  | unknownOpcode
  /-- CALL with SP = 16 (R203) -/
  | stackOverflow
  /-- RET with SP = 0 (R204) -/
  | stackUnderflow
  /-- JP V0 past 0xFFF under `JUMP_OVERFLOW_POLICY = fault` (R205) -/
  | addressOutOfRange
  deriving DecidableEq, Repr

/-- The display buffer: `disp[y][x]`, 32 rows of 64 pixels, `true` for a set pixel (10_state.md R34). -/
abbrev Grid := Vector (Vector Bool 64) 32

/-- The keypad, or a recorded keypad state: `true` for a pressed key (R36, R37). -/
abbrev Keys := Vector Bool 16

/-- The state record (R20), with the model's own `params` (00_scope.md R9) and `draws` (41_register_alu.md R133). -/
structure State where
  /-- Memory (R31), in the canonical form `Memory.wf`. -/
  mem : List Host.Cell
  /-- V0 to VF (R21). -/
  V : Vector Byte 16
  /-- The index register (R26). -/
  I : Word
  /-- The program counter (R24). -/
  PC : Word
  /-- The number of return addresses on the call stack, 0 to 16 (R27). -/
  SP : Fin 17
  /-- The call stack's slots (R28). -/
  stack : Vector Word 16
  /-- The delay timer (R29). -/
  DT : Byte
  /-- The sound timer (R30). -/
  ST : Byte
  /-- The display buffer (R34). -/
  disp : Grid
  /-- The dirty flag (R35). -/
  dirty : Bool
  /-- The keypad, written by the host only (R36). -/
  key : Keys
  /-- An LD Vx, K at PC has started and not retired (R37). -/
  waitActive : Bool
  /-- The keypad the last poll of that LD Vx, K saw (R37). -/
  waitPrev : Keys
  /-- A fatal condition has been raised (R38). -/
  halted : Bool
  /-- Which condition (R38). -/
  errKind : ErrKind
  /-- The address of the instruction that raised it (R38). -/
  errPc : Word
  /-- That instruction's word (R38). -/
  errWord : Word
  /-- The tone latch (R39). -/
  tone : Bool
  /-- Seconds of wall-clock time reported since reset (R40). -/
  tTotal : Rat
  /-- Instruction ticks executed since reset (R40). -/
  instrDone : Nat
  /-- Timer ticks executed since reset (R40). -/
  timerDone : Nat
  /-- MODEL'S OWN: how many draws RND has taken from `Config.entropy` (log entry 3). -/
  draws : Nat
  /-- MODEL'S OWN: the parameters of R9, which nothing changes (log entry 2). -/
  params : Params
  deriving DecidableEq, Repr

/-- What every meaning answers. -/
abbrev Result := Host.Outcome State Fault Refusal

/-- The machine after reset with an empty ROM, the default parameters and no key pressed (R42, 70_reset_and_hazards.md
R251). -/
def State.reset : State where
  mem := []
  V := Vector.replicate 16 0#8
  I := 0#16
  PC := 0x200#16
  SP := 0
  stack := Vector.replicate 16 0#16
  DT := 0#8
  ST := 0#8
  disp := Vector.replicate 32 (Vector.replicate 64 false)
  dirty := true
  key := Vector.replicate 16 false
  waitActive := false
  waitPrev := Vector.replicate 16 false
  halted := false
  errKind := .none
  errPc := 0#16
  errWord := 0#16
  tone := false
  tTotal := 0
  instrDone := 0
  timerDone := 0
  draws := 0
  params := defaultParams

end Sys2Proof.Machine
end

