-- ==== Sys2Proof/Machine/Ops.lean ====
section
/-! DEFINITION. The named operations over the state: memory, fetch, registers, the program counter, the call stack, entry
into a fatal condition, and an Unknown word. There is no return from a fatal condition (60_exceptions.md R208). -/

namespace Sys2Proof.Machine

/-! ### Outcomes -/

/-- Continue with `f` where `o` is a next state. -/
def onNext (o : Result) (f : State → Result) : Result :=
  match o with
  | .next s => f s
  | .fault r => .fault r
  | .refused r => .refused r

/-- Change the next state by `f`. -/
def mapNext (f : State → State) (o : Result) : Result :=
  match o with
  | .next s => .next (f s)
  | .fault r => .fault r
  | .refused r => .refused r

/-! ### Memory -/

/-- `MemRead(a, 1)`, total on every address (20_memory.md R52). -/
def State.memRead (s : State) (a : Nat) : Byte :=
  Memory.read s.params.font s.mem (a % 4096)

/-- `MemWrite(a, 1, v)`, total on every address, the reserved region and the font included (R53, R61). -/
def State.memWrite (s : State) (a : Nat) (v : Byte) : State :=
  { s with mem := Memory.write s.params.font (a % 4096) v s.mem }

/-- Bytes stored at ascending addresses from `a`. -/
def State.memWriteList (s : State) (a : Nat) : List Byte → State
  | [] => s
  | b :: rest => (s.memWrite a b).memWriteList (a + 1) rest

/-- `Fetch(PC)`: the big-endian word at PC, the second byte wrapping past 0xFFF (R54). -/
def State.fetch (s : State) : Word :=
  wordOfBytes (s.memRead s.PC.toNat) (s.memRead (s.PC.toNat + 1))

/-- The word `w` stored where `fetch` reads, with the instruction clock running (R206): the host's load of one
instruction, not an operation of the block (log entry 10). -/
def State.placeWord (s : State) (w : Word) : State :=
  { (s.memWrite s.PC.toNat (bytesOfWord w).1).memWrite (s.PC.toNat + 1) (bytesOfWord w).2 with halted := false }

/-! ### Registers -/

/-- `V[r]` (10_state.md R21). -/
def State.getV (s : State) (r : RegIdx) : Byte := s.V[r.toNat]'r.isLt

/-- `V[r] <- v` (R21). -/
def State.setV (s : State) (r : RegIdx) (v : Byte) : State := { s with V := s.V.set r.toNat v r.isLt }

/-- `I <- a` (R26). -/
def State.setI (s : State) (a : Word) : State := { s with I := a }

/-- `DT <- v` (R29). -/
def State.setDT (s : State) (v : Byte) : State := { s with DT := v }

/-- `ST <- v` (R30). -/
def State.setST (s : State) (v : Byte) : State := { s with ST := v }

/-! ### The program counter -/

/-- `a & 0xFFF` on a 16-bit value (R24, R51). -/
def mask12 (a : Word) : Word := a &&& 0x0FFF#16

/-- `PC <- a`: every write to PC masks the value to 12 bits (R24). -/
def State.setPc (s : State) (a : Word) : State := { s with PC := mask12 a }

/-- `PCnext = (PC + 2) & 0xFFF` (00_scope.md R12). -/
def State.pcNext (s : State) : Word := mask12 (s.PC + 2#16)

/-- `PC <- PCnext` (R25). -/
def State.advance (s : State) : State := s.setPc (s.PC + 2#16)

/-- `PC <- (PC + 4) & 0xFFF` where the condition holds, else `PC <- PCnext` (R25). -/
def State.skipIf (s : State) (c : Bool) : State :=
  if c then s.setPc (s.PC + 4#16) else s.advance

/-! ### The call stack -/

/-- `stack[SP] <- PCnext; SP <- SP + 1` (40_control_flow.md R104). -/
def State.pushReturn (s : State) (h : s.SP.val ≠ 16) : State :=
  { s with
    stack := s.stack.set s.SP.val s.pcNext (by omega)
    SP := ⟨s.SP.val + 1, by omega⟩ }

/-- `SP <- SP - 1; PC <- stack[SP]`, the slot keeping its value (R102, 10_state.md R28). -/
def State.popReturn (s : State) : State :=
  ({ s with SP := ⟨s.SP.val - 1, by omega⟩ } : State).setPc (s.stack[s.SP.val - 1]'(by omega))

/-! ### Fatal conditions -/

/-- Entry into the fatal condition `k` raised by the instruction at PC whose word is `w` (60_exceptions.md R201): the
status is latched and every other field keeps its value. -/
def State.raise (s : State) (k : ErrKind) (w : Word) : State :=
  { s with halted := true, errKind := k, errPc := s.PC, errWord := w }

/-- Executing the Unknown word at PC (30_encoding.md R78, R202). -/
def State.unknownWord (s : State) : State :=
  match s.params.unknownOpcode with
  | .fatal => s.raise .unknownOpcode s.fetch
  | .skip => s.advance

end Sys2Proof.Machine
end

