-- ==== Sys2Proof/Machine/Operands.lean ====
section
/-! DEFINITION. The operand forms: the addressing mode, key and glyph indexes, the shifted register and jump targets. -/

namespace Sys2Proof.Machine

/-- The address of the `r`-th byte, `(I + r) & 0xFFF` (44_index_memory.md R180). -/
def State.indexAddr (s : State) (r : Nat) : Nat := (s.I.toNat + r) % 4096

/-- `MemRead(I + r, 1)` (R57). -/
def State.indexRead (s : State) (r : Nat) : Byte := s.memRead (s.indexAddr r)

/-- `MemWrite(I + r, 1, v)` (R57). -/
def State.indexWrite (s : State) (r : Nat) (v : Byte) : State := s.memWrite (s.indexAddr r) v

/-- The key number a register holds, `V[x] & 0xF` (43_keypad_timer.md R160). -/
def State.keyIndex (s : State) (x : RegIdx) : BitVec 4 := (s.getV x).setWidth 4

/-- `key[k]` (R160). -/
def State.keyDown (s : State) (k : BitVec 4) : Bool := s.key[k.toNat]'k.isLt

/-- The address of the font glyph of a value's low nibble, `5 * (v & 0xF)` (R183). -/
def glyphAddr (v : Byte) : Word := BitVec.ofNat 16 (5 * (v.toNat % 16))

/-- The operand of SHR and SHL, by `SHIFT_SOURCE` (41_register_alu.md R130, R132). -/
def State.shiftOperand (s : State) (x y : RegIdx) : Byte :=
  match s.params.shiftSource with
  | .vx => s.getV x
  | .vy => s.getV y

/-- `zext_16(nnn)` (30_encoding.md R73). -/
def zext16 (nnn : Addr) : Word := nnn.setWidth 16

/-- The 13-bit sum `V[0] + nnn` of JP V0 (40_control_flow.md R109). -/
def State.offsetTarget (s : State) (nnn : Addr) : Nat := (s.getV 0#4).toNat + nnn.toNat

/-- `I` after a block store or load of `V0..Vx`, by `LOADSTORE_I_POLICY` (R185, R186). -/
def State.indexAfterBlock (s : State) (x : RegIdx) : Word :=
  match s.params.indexPolicy with
  | .unchanged => s.I
  | .increment => s.I + BitVec.ofNat 16 (x.toNat + 1)

/-- The decimal digits of a byte: hundreds, tens, units (R184). -/
def bcdDigits (v : Byte) : Byte × Byte × Byte :=
  (BitVec.ofNat 8 (v.toNat / 100), BitVec.ofNat 8 (v.toNat / 10 % 10), BitVec.ofNat 8 (v.toNat % 10))

end Sys2Proof.Machine
end

