-- ==== Sys2Proof/Machine/Flags.lean ====
section
/-! DEFINITION. The flag computations of 41_register_alu.md and the order of writes of R121. -/

namespace Sys2Proof.Machine

/-- A flag as the byte VF receives: 1 or 0 (10_state.md R22). -/
def flagByte (b : Bool) : Byte := if b then 1#8 else 0#8

/-- The carry of `a + b`: the sum passes 255 (R128). -/
def carryOut (a b : Byte) : Bool := decide (255 < a.toNat + b.toNat)

/-- No borrow in `a - b`: `a >= b` (R129, R131). -/
def noBorrow (a b : Byte) : Bool := decide (b.toNat ≤ a.toNat)

/-- The bit a right shift by one shifts out (R130). -/
def shiftedOutRight (v : Byte) : Bool := v.getLsbD 0

/-- The bit a left shift by one shifts out (R132). -/
def shiftedOutLeft (v : Byte) : Bool := v.getLsbD 7

/-- The result to `V[x]` first, the flag to VF last (R121). -/
def State.setResultAndFlag (s : State) (x : RegIdx) (result : Byte) (flag : Bool) : State :=
  (s.setV x result).setV vf (flagByte flag)

end Sys2Proof.Machine
end

