-- ==== Sys2Proof/Machine/Alu.lean ====
section
/-! DEFINITION. The register load and arithmetic instructions of 41_register_alu.md. -/

namespace Sys2Proof.Machine

/-- LD Vx, kk (R122). -/
def execLdImm (x : RegIdx) (kk : Byte) (s : State) : Result := .next (s.setV x kk).advance

/-- ADD Vx, kk (R123): no flag. -/
def execAddImm (x : RegIdx) (kk : Byte) (s : State) : Result := .next (s.setV x (s.getV x + kk)).advance

/-- LD Vx, Vy (R124). -/
def execLdReg (x y : RegIdx) (s : State) : Result := .next (s.setV x (s.getV y)).advance

/-- OR Vx, Vy (R125). -/
def execOrReg (x y : RegIdx) (s : State) : Result := .next (s.setV x (s.getV x ||| s.getV y)).advance

/-- AND Vx, Vy (R126). -/
def execAndReg (x y : RegIdx) (s : State) : Result := .next (s.setV x (s.getV x &&& s.getV y)).advance

/-- XOR Vx, Vy (R127). -/
def execXorReg (x y : RegIdx) (s : State) : Result := .next (s.setV x (s.getV x ^^^ s.getV y)).advance

/-- ADD Vx, Vy (R128): VF = carry. -/
def execAddReg (x y : RegIdx) (s : State) : Result :=
  .next (s.setResultAndFlag x (s.getV x + s.getV y) (carryOut (s.getV x) (s.getV y))).advance

/-- SUB Vx, Vy (R129): VF = no borrow. -/
def execSub (x y : RegIdx) (s : State) : Result :=
  .next (s.setResultAndFlag x (s.getV x - s.getV y) (noBorrow (s.getV x) (s.getV y))).advance

/-- SHR Vx, Vy (R130): VF = the bit shifted out. -/
def execShr (x y : RegIdx) (s : State) : Result :=
  .next (s.setResultAndFlag x (s.shiftOperand x y >>> 1) (shiftedOutRight (s.shiftOperand x y))).advance

/-- SUBN Vx, Vy (R131): VF = no borrow. -/
def execSubn (x y : RegIdx) (s : State) : Result :=
  .next (s.setResultAndFlag x (s.getV y - s.getV x) (noBorrow (s.getV y) (s.getV x))).advance

/-- SHL Vx, Vy (R132): VF = the bit shifted out. -/
def execShl (x y : RegIdx) (s : State) : Result :=
  .next (s.setResultAndFlag x (s.shiftOperand x y <<< 1) (shiftedOutLeft (s.shiftOperand x y))).advance

/-- One fresh draw of the entropy port (60_exceptions.md R233): the free value's next element. -/
def State.entropyDraw (s : State) : Byte := Config.entropy s.draws

/-- The draw is taken: the next one is fresh. -/
def State.takeDraw (s : State) : State := { s with draws := s.draws + 1 }

/-- RND Vx, kk (R133). -/
def execRnd (x : RegIdx) (kk : Byte) (s : State) : Result :=
  .next (s.takeDraw.setV x (s.entropyDraw &&& kk)).advance

end Sys2Proof.Machine
end

