-- ==== Sys2Proof/Machine/Control.lean ====
section
/-! DEFINITION. The control flow instructions of 40_control_flow.md. -/

namespace Sys2Proof.Machine

/-- SYS nnn (R100). -/
def execSys (nnn : Addr) (s : State) : Result :=
  match s.params.sysPolicy with
  | .fatal => .next (s.raise .unknownOpcode (encode (.sys nnn)))
  | .nop => .next s.advance

/-- RET (R102). -/
def execRet (s : State) : Result :=
  if s.SP.val = 0 then .next (s.raise .stackUnderflow (encode .ret))
  else .next s.popReturn

/-- JP nnn (R103). -/
def execJp (nnn : Addr) (s : State) : Result := .next (s.setPc (zext16 nnn))

/-- CALL nnn (R104). -/
def execCall (nnn : Addr) (s : State) : Result :=
  if h : s.SP.val = 16 then .next (s.raise .stackOverflow (encode (.call nnn)))
  else .next ((s.pushReturn h).setPc (zext16 nnn))

/-- SE Vx, kk (R105). -/
def execSeImm (x : RegIdx) (kk : Byte) (s : State) : Result := .next (s.skipIf (s.getV x == kk))

/-- SNE Vx, kk (R106). -/
def execSneImm (x : RegIdx) (kk : Byte) (s : State) : Result := .next (s.skipIf (s.getV x != kk))

/-- SE Vx, Vy (R107). -/
def execSeReg (x y : RegIdx) (s : State) : Result := .next (s.skipIf (s.getV x == s.getV y))

/-- SNE Vx, Vy (R108). -/
def execSneReg (x y : RegIdx) (s : State) : Result := .next (s.skipIf (s.getV x != s.getV y))

/-- JP V0, nnn (R109, R110). -/
def execJpV0 (nnn : Addr) (s : State) : Result :=
  if 0xFFF < s.offsetTarget nnn ∧ s.params.jumpOverflow = .fault then
    .next (s.raise .addressOutOfRange (encode (.jpV0 nnn)))
  else .next (s.setPc (BitVec.ofNat 16 (s.offsetTarget nnn)))

end Sys2Proof.Machine
end

