-- ==== Sys2Proof/Machine/Display.lean ====
section
/-! DEFINITION. The Display/Sprite Engine of 42_display.md: pixels, the sprite blitter, CLS and DRW. -/

namespace Sys2Proof.Machine

/-- `disp[y mod 32][x mod 64]`: coordinates wrap (R140). -/
def pixelAt (g : Grid) (x y : Nat) : Bool :=
  (g[y % 32]'(Nat.mod_lt _ (by decide)))[x % 64]'(Nat.mod_lt _ (by decide))

/-- The buffer with the pixel at column `x mod 64`, row `y mod 32` inverted (R143). -/
def flipPixel (g : Grid) (x y : Nat) : Grid :=
  g.set (y % 32)
    ((g[y % 32]'(Nat.mod_lt _ (by decide))).set (x % 64) (!pixelAt g x y) (Nat.mod_lt _ (by decide)))
    (Nat.mod_lt _ (by decide))

/-- Every pixel unset (R142). -/
def blankGrid : Grid := Vector.replicate 32 (Vector.replicate 64 false)

/-- What DRW's loops carry: the buffer, `collide` and `changed` (R143). -/
structure Blit where
  grid : Grid
  collide : Bool
  changed : Bool
  deriving DecidableEq, Repr

/-- Column `c` of the row `r` of a sprite whose row byte is `b`, drawn at the origin `(ox, oy)` (R143). -/
def blitBit (ox oy r : Nat) (b : Byte) (acc : Blit) (c : Nat) : Blit :=
  if b.getLsbD (7 - c) then
    { grid := flipPixel acc.grid (ox + c) (oy + r)
      collide := acc.collide || pixelAt acc.grid (ox + c) (oy + r)
      changed := true }
  else acc

/-- The eight columns of a row, most significant bit first (R140, R143). -/
def blitRow (ox oy r : Nat) (b : Byte) (acc : Blit) : Blit :=
  (List.range 8).foldl (blitBit ox oy r b) acc

/-- The rows of a sprite, the `r`-th byte being `rows r`, drawn on the buffer `g` (R143). -/
def blitSprite (ox oy n : Nat) (rows : Nat → Byte) (g : Grid) : Blit :=
  (List.range n).foldl (fun acc r => blitRow ox oy r (rows r) acc) ⟨g, false, false⟩

/-- CLS (R142). -/
def execCls (s : State) : Result :=
  .next ({ s with disp := blankGrid, dirty := true } : State).advance

/-- The drawing of DRW Vx, Vy, n, from the registers and memory before the instruction (R143, R144). -/
def State.spriteBlit (s : State) (x y : RegIdx) (n : BitVec 4) : Blit :=
  blitSprite ((s.getV x).toNat % 64) ((s.getV y).toNat % 32) n.toNat s.indexRead s.disp

/-- DRW Vx, Vy, n (R143 to R146): VF is written after the origin is read. -/
def execDrw (x y : RegIdx) (n : BitVec 4) (s : State) : Result :=
  let b := s.spriteBlit x y n
  .next (({ s with disp := b.grid, dirty := s.dirty || b.changed } : State).setV vf (flagByte b.collide)).advance

end Sys2Proof.Machine
end

