-- ==== Sys2Proof/Machine/Index.lean ====
section
/-! DEFINITION. The index register and memory instructions of 44_index_memory.md. -/

namespace Sys2Proof.Machine

/-- LD I, nnn (R181). -/
def execLdI (nnn : Addr) (s : State) : Result := .next (s.setI (zext16 nnn)).advance

/-- ADD I, Vx (R182): 16-bit wrap, no flag. -/
def execAddI (x : RegIdx) (s : State) : Result := .next (s.setI (s.I + (s.getV x).setWidth 16)).advance

/-- LD F, Vx (R183). -/
def execLdF (x : RegIdx) (s : State) : Result := .next (s.setI (glyphAddr (s.getV x))).advance

/-- LD B, Vx (R184). -/
def execLdB (x : RegIdx) (s : State) : Result :=
  let d := bcdDigits (s.getV x)
  .next (((s.indexWrite 0 d.1).indexWrite 1 d.2.1).indexWrite 2 d.2.2).advance

/-- `for r in 0 .. n-1: MemWrite(I + r, 1, V[r])`, ascending (R185). -/
def State.storeRegs (s : State) (n : Nat) : State :=
  (List.range n).foldl (fun t r => t.indexWrite r (t.getV (BitVec.ofNat 4 r))) s

/-- `for r in 0 .. n-1: V[r] <- MemRead(I + r, 1)`, ascending (R186). -/
def State.loadRegs (s : State) (n : Nat) : State :=
  (List.range n).foldl (fun t r => t.setV (BitVec.ofNat 4 r) (t.indexRead r)) s

/-- LD [I], Vx (R185). -/
def execLdStore (x : RegIdx) (s : State) : Result :=
  .next ((s.storeRegs (x.toNat + 1)).setI (s.indexAfterBlock x)).advance

/-- LD Vx, [I] (R186). -/
def execLdLoad (x : RegIdx) (s : State) : Result :=
  .next ((s.loadRegs (x.toNat + 1)).setI (s.indexAfterBlock x)).advance

end Sys2Proof.Machine
end

