-- ==== Sys2Proof/Machine/Keypad.lean ====
section
/-! DEFINITION. The keypad and timer instructions of 43_keypad_timer.md. -/

namespace Sys2Proof.Machine

/-- SKP Vx (R161). -/
def execSkp (x : RegIdx) (s : State) : Result := .next (s.skipIf (s.keyDown (s.keyIndex x)))

/-- SKNP Vx (R162). -/
def execSknp (x : RegIdx) (s : State) : Result := .next (s.skipIf (!s.keyDown (s.keyIndex x)))

/-- No key pressed. -/
def noKeys : Keys := Vector.replicate 16 false

/-- The least of the keys pressed now and not at the last poll, `min(E)` (R163). -/
def State.newPress? (s : State) : Option (Fin 16) :=
  (List.finRange 16).find? fun k => s.key[k] && !s.waitPrev[k]

/-- The first execution of LD Vx, K starts the wait: keys already held do not count (R163). -/
def State.beginWait (s : State) : State := { s with waitActive := true, waitPrev := s.key }

/-- A poll with no new press: a release re-arms that key (R163). -/
def State.pollWait (s : State) : State := { s with waitPrev := s.key }

/-- The wait ends (R163). -/
def State.endWait (s : State) : State := { s with waitActive := false, waitPrev := noKeys }

/-- LD Vx, K (R163, R164). -/
def execLdVxK (x : RegIdx) (s : State) : Result :=
  if s.waitActive then
    match s.newPress? with
    | none => .next s.pollWait
    | some k => .next (s.endWait.setV x (BitVec.ofNat 8 k.val)).advance
  else .next s.beginWait

/-- LD Vx, DT (R165). -/
def execLdVxDt (x : RegIdx) (s : State) : Result := .next (s.setV x s.DT).advance

/-- LD DT, Vx (R166). -/
def execLdDtVx (x : RegIdx) (s : State) : Result := .next (s.setDT (s.getV x)).advance

/-- LD ST, Vx (R167): `tone` waits for the next timer tick. -/
def execLdStVx (x : RegIdx) (s : State) : Result := .next (s.setST (s.getV x)).advance

end Sys2Proof.Machine
end

