-- ==== Sys2Proof/Machine/Controller.lean ====
section
/-! DEFINITION. The Timing Controller of 60_exceptions.md R220 to R227: the instruction tick, the timer tick, the run-loop
iteration, and what one step of the machine does with them. -/

namespace Sys2Proof.Machine

/-- One instruction tick (R222): nothing while halted (R206), else fetch, decode and execute. -/
def instrTick (s : State) : Result :=
  if s.halted then .next s
  else
    match decodeWord s.params.strictLowNibble s.fetch with
    | .ok i => exec i s
    | .error _ => .next s.unknownWord

/-- A timer counts down by one, floored at 0 (R225). -/
def countDown (v : Byte) : Byte := if v = 0#8 then 0#8 else v - 1#8

/-- One timer tick (R225, R226). -/
def State.timerTick (s : State) : State :=
  { s with DT := countDown s.DT, ST := countDown s.ST, tone := countDown s.ST != 0#8 }

/-- The ticks of a clock of `rate` ticks a second that are due by time `t`: `floor(t * rate)` of R223, by the fraction's
numerator and denominator. -/
def ticksDue (t : Rat) (rate : Nat) : Nat := t.num.toNat * rate / t.den

/-- `repeat n times: InstrTick(); instr_done <- instr_done + 1` (R223). -/
def runInstrTicks : Nat → State → Result
  | 0, s => .next s
  | n + 1, s => onNext (instrTick s) fun t => runInstrTicks n { t with instrDone := t.instrDone + 1 }

/-- `repeat n times: TimerTick(); timer_done <- timer_done + 1` (R223). -/
def runTimerTicks : Nat → State → State
  | 0, s => s
  | n + 1, s => runTimerTicks n { s.timerTick with timerDone := s.timerDone + 1 }

/-- The owed instruction ticks (R223). -/
def State.instrOwed (s : State) : Nat := ticksDue s.tTotal s.params.instrRate - s.instrDone

/-- The owed timer ticks (R223). -/
def State.timerOwed (s : State) : Nat := ticksDue s.tTotal 60 - s.timerDone

/-- `t_total <- t_total + dt` (R223). -/
def State.addTime (s : State) (dt : NNRat) : State := { s with tTotal := s.tTotal + (dt : Rat) }

/-- One run-loop iteration with the elapsed time `dt` (R223): the instruction ticks owed, then the timer ticks owed (R224). -/
def iterate (dt : NNRat) (s : State) : Result :=
  mapNext (runTimerTicks (s.addTime dt).timerOwed) (runInstrTicks (s.addTime dt).instrOwed (s.addTime dt))

/-- One instruction tick is counted, at the time it is due: where no tick was owed, the wall clock has reached
`(instr_done + 1) / INSTR_RATE_HZ` (log entry 1). -/
def State.countInstr (s : State) : State :=
  { s with
    instrDone := s.instrDone + 1
    tTotal := if s.instrOwed = 0 then mkRat (s.instrDone + 1) s.params.instrRate else s.tTotal }

/-- What follows the instruction tick of one step: it is counted, and once no instruction tick is owed the owed timer ticks
run (R223, R224). -/
def State.retire (s : State) : State :=
  runTimerTicks (if s.countInstr.instrOwed = 0 then s.countInstr.timerOwed else 0) s.countInstr

/-- One step of the machine: one owed instruction tick and the timer ticks then owed. Where none is owed it is the run-loop
iteration whose elapsed time makes exactly the next instruction tick due (log entry 1). -/
def stepTick (s : State) : Result := mapNext State.retire (instrTick s)

end Sys2Proof.Machine
end

