-- ==== Sys2Proof/Machine/Step.lean ====
section
/-! DEFINITION. The step, and an instruction placed where the step fetches. -/

namespace Sys2Proof.Machine

/-- One step: one instruction tick and the timer ticks then owed (60_exceptions.md R222, R223; log entry 1). -/
def step (s : State) : Host.Outcome State Fault Refusal := Sys2Proof.Machine.stepTick s

/-- The state with the instruction of the table's bits `w` stored at PC and the instruction clock running (log entry 10). -/
def State.withFetchWord (s : State) (nbits w : Nat) : State :=
  s.placeWord (BitVec.ofNat 16 (w % 2 ^ nbits))

end Sys2Proof.Machine
end

