-- ==== Sys2Proof/Machine/Ports.lean ====
section
/-! DEFINITION. The host ports of 60_exceptions.md R230 to R237 and the reset sequence of 70_reset_and_hazards.md R251. -/

namespace Sys2Proof.Machine

/-- The errors of host operations, which change no state (R210). -/
inductive HostError where
  /-- `load_rom` of more than 3584 bytes (R237) -/
  | romTooLarge
  /-- `load_snapshot` of bytes that are no snapshot (R243) -/
  | snapshotFormat
  deriving DecidableEq, Repr

/-- `set_keys(k)` (R232). -/
def State.setKeys (s : State) (k : Keys) : State := { s with key := k }

/-- `read_display()`: the buffer and the dirty flag (R234). -/
def State.readDisplay (s : State) : Grid × Bool := (s.disp, s.dirty)

/-- `ack_dirty()` (R235). -/
def State.ackDirty (s : State) : State := { s with dirty := false }

/-- The code of `err_kind` (R200). -/
def errCode (k : ErrKind) : Nat :=
  match k with
  | .none => 0
  | .unknownOpcode => 1
  | .stackOverflow => 2
  | .stackUnderflow => 3
  | .addressOutOfRange => 4

/-- The status outputs (R236). -/
structure Status where
  halted : Bool
  errKind : Nat
  errPc : Word
  errWord : Word
  waitActive : Bool
  tone : Bool
  deriving DecidableEq, Repr

/-- `status` (R236). -/
def State.status (s : State) : Status :=
  ⟨s.halted, errCode s.errKind, s.errPc, s.errWord, s.waitActive, s.tone⟩

/-- `Reset()` (R251): every field but the host's keypad, the parameters and the number of entropy draws. -/
def State.resetSession (s : State) : State :=
  { State.reset with key := s.key, draws := s.draws, params := s.params }

/-- `load_rom(bytes)` (R237). -/
def State.loadRom (s : State) (rom : List Byte) : Except HostError State :=
  if 0xE00 < rom.length then .error .romTooLarge
  else .ok (s.resetSession.memWriteList 0x200 rom)

end Sys2Proof.Machine
end

