-- ==== Sys2Proof/Machine/Snapshot.lean ====
section
/-! DEFINITION. The Snapshot Codec of 60_exceptions.md R240 to R245. -/

namespace Sys2Proof.Machine

/-- The section table of R241: id and payload length, in order. -/
def sectionTable : List (Nat × Nat) :=
  [(1, 4096), (2, 16), (3, 2), (4, 2), (5, 1), (6, 32), (7, 1), (8, 1), (9, 256)]

/-- The bytes 0 to 32: magic, version, section count and section table, big-endian (R241). -/
def snapshotHeader : List Byte :=
  [0x43#8, 0x38#8, 0x53#8, 0x53#8, 0x01#8, 9#8] ++
    sectionTable.flatMap fun e => [BitVec.ofNat 8 e.1, BitVec.ofNat 8 (e.2 / 256), BitVec.ofNat 8 (e.2 % 256)]

/-- The two bytes of a 16-bit value, big-endian (R241). -/
def wordBytes (w : Word) : List Byte := [(bytesOfWord w).1, (bytesOfWord w).2]

/-- Byte `k` of the display payload: pixel `disp[y][x]` is bit `7 - (x mod 8)` of byte `8*y + floor(x / 8)` (R241). -/
def dispByte (g : Grid) (k : Nat) : Byte :=
  (List.range 8).foldl (fun b j => b <<< 1 ||| flagByte (pixelAt g (k % 8 * 8 + j) (k / 8))) 0#8

/-- The memory payload: every byte in address order (R241). -/
def State.memBytes (s : State) : List Byte := (List.range 4096).map s.memRead

/-- `save_snapshot()` (R241, R242). -/
def State.saveSnapshot (s : State) : List Byte :=
  snapshotHeader ++ s.memBytes ++ s.V.toList ++ wordBytes s.I ++ wordBytes s.PC ++ [BitVec.ofNat 8 s.SP.val] ++
    s.stack.toList.flatMap wordBytes ++ [s.DT] ++ [s.ST] ++ (List.range 256).map (dispByte s.disp)

/-- Byte `k` of a byte string. -/
def byteAt (bs : List Byte) (k : Nat) : Byte := bs.getD k 0#8

/-- The big-endian 16-bit value at byte `k`. -/
def wordAt (bs : List Byte) (k : Nat) : Word := wordOfBytes (byteAt bs k) (byteAt bs (k + 1))

/-- Where the payload of each section begins: 33 and the lengths before it (R241). -/
def offMem : Nat := 33
def offV : Nat := offMem + 4096
def offI : Nat := offV + 16
def offPC : Nat := offI + 2
def offSP : Nat := offPC + 2
def offStack : Nat := offSP + 1
def offDT : Nat := offStack + 32
def offST : Nat := offDT + 1
def offDisp : Nat := offST + 1

/-- The checks of R243: length, magic, version, section count, section table, PC, SP and every stack slot. -/
def snapshotValid (bs : List Byte) : Bool :=
  bs.length == 4440 && bs.take 33 == snapshotHeader &&
    decide ((wordAt bs offPC).toNat ≤ 0xFFF) && decide ((byteAt bs offSP).toNat ≤ 16) &&
    (List.range 16).all fun k => decide ((wordAt bs (offStack + 2 * k)).toNat ≤ 0xFFF)

/-- The display a payload holds (R241). -/
def dispOfBytes (bs : List Byte) : Grid :=
  Vector.ofFn fun y : Fin 32 => Vector.ofFn fun x : Fin 64 =>
    (byteAt bs (offDisp + 8 * y.val + x.val / 8)).getLsbD (7 - x.val % 8)

/-- The restored state (R244): the sections' fields from the bytes, `dirty` set, the key wait cleared, every other field
kept. -/
def State.restoreSnapshot (s : State) (bs : List Byte) : State :=
  { s with
    mem := Memory.ofBytes s.params.font 0 ((List.range 4096).map fun k => byteAt bs (offMem + k))
    V := Vector.ofFn fun r : Fin 16 => byteAt bs (offV + r.val)
    I := wordAt bs offI
    PC := wordAt bs offPC
    SP := Fin.ofNat 17 (byteAt bs offSP).toNat
    stack := Vector.ofFn fun k : Fin 16 => wordAt bs (offStack + 2 * k.val)
    DT := byteAt bs offDT
    ST := byteAt bs offST
    disp := dispOfBytes bs
    dirty := true
    waitActive := false
    waitPrev := noKeys }

/-- `load_snapshot(bytes)`: all or nothing (R243, R244). -/
def State.loadSnapshot (s : State) (bs : List Byte) : Except HostError State :=
  if snapshotValid bs then .ok (s.restoreSnapshot bs) else .error .snapshotFormat

end Sys2Proof.Machine
end

