-- ==== Sys2Proof/Machine/HostOps.lean ====
section
/-! DEFINITION. The host operations of 60_exceptions.md R231 as one type, so that a rule about all of them can be stated. -/

namespace Sys2Proof.Machine

/-- The host operations of R231 (the entropy port is `Config.entropy`). -/
inductive HostOp where
  | iterate (dt : NNRat)
  | setKeys (k : Keys)
  | readDisplay
  | ackDirty
  | status
  | loadRom (rom : List Byte)
  | saveSnapshot
  | loadSnapshot (bs : List Byte)

/-- The state an operation that can fail leaves: unchanged on an error (R210). -/
def settle (s : State) (r : Except HostError State) : State :=
  match r with
  | .ok t => t
  | .error _ => s

/-- What a host operation does to the state, at a tick boundary (R230). -/
def hostOp (op : HostOp) (s : State) : Result :=
  match op with
  | .iterate dt => iterate dt s
  | .setKeys k => .next (s.setKeys k)
  | .readDisplay => .next s
  | .ackDirty => .next s.ackDirty
  | .status => .next s
  | .loadRom rom => .next (settle s (s.loadRom rom))
  | .saveSnapshot => .next s
  | .loadSnapshot bs => .next (settle s (s.loadSnapshot bs))

end Sys2Proof.Machine
end

