-- ==== Sys2Proof/Safety.lean ====
section
/-! DEFINITION. The terms claims are stated in: the invariants of 10_state.md R43 and of the tick accounting (60_exceptions.md
R223), what a transition leaves unchanged, and the sprite of a DRW as a set of pixels (42_display.md R143). -/

namespace Sys2Proof.Machine

/-- What the word at PC decodes to (30_encoding.md R72, R74). -/
def State.decoded (s : State) : Except Reject Instr := decodeWord s.params.strictLowNibble s.fetch

/-- The invariants of R43 that the field types do not already hold, and the canonical form of memory. -/
structure State.Inv (s : State) : Prop where
  memCanonical : Memory.wf s.params.font s.mem
  pcInRange : s.PC.toNat ≤ 0xFFF
  stackInRange : ∀ k : Fin 16, s.stack[k].toNat ≤ 0xFFF
  waitsAtKeyWait : s.waitActive = true → ∃ x, s.decoded = .ok (.ldVxK x)
  errorOnlyHalted : s.halted = false → s.errKind = .none

/-- The tick accounting between two iterations (R223): every tick owed for the reported time has run. -/
structure State.OnTime (s : State) : Prop where
  ratePositive : 0 < s.params.instrRate
  timeNonneg : 0 ≤ s.tTotal
  instrTicks : s.instrDone = ⌊s.tTotal * s.params.instrRate⌋.toNat
  timerTicks : s.timerDone = ⌊s.tTotal * 60⌋.toNat

/-- Every byte of memory reads as before. -/
def sameBytes (s t : State) : Prop := ∀ a, t.memRead a = s.memRead a

/-- Every byte of memory outside the addresses in `ds` reads as before. -/
def sameBytesBut (ds : List Nat) (s t : State) : Prop := ∀ a, a < 4096 → a ∉ ds → t.memRead a = s.memRead a

/-- Every general register but those in `ds` is as before. -/
def sameRegsBut (ds : List RegIdx) (s t : State) : Prop := ∀ r, r ∉ ds → t.getV r = s.getV r

/-- PC has advanced by `k`, wrapping at 4096 (10_state.md R25). -/
def pcAdvanced (k : Nat) (s t : State) : Prop := t.PC.toNat = (s.PC.toNat + k) % 4096

/-- Nothing but PC changed: every register, memory byte and other field is as before. -/
def onlyPcChanged (s t : State) : Prop := t = { s with PC := t.PC } ∧ sameRegsBut [] s t ∧ sameBytes s t

/-- Nothing but the registers in `ds` and PC changed, and PC advanced by 2. -/
def onlyRegsChanged (ds : List RegIdx) (s t : State) : Prop :=
  pcAdvanced 2 s t ∧ t = { s with V := t.V, PC := t.PC } ∧ sameRegsBut ds s t ∧ sameBytes s t

/-- Entry into the condition `k` at the word `w` (60_exceptions.md R201), field by field. -/
def enteredFatal (k : ErrKind) (w : Word) (s t : State) : Prop :=
  t.halted = true ∧ t.errKind = k ∧ t.errPc = s.PC ∧ t.errWord = w ∧
    t = { s with halted := t.halted, errKind := t.errKind, errPc := t.errPc, errWord := t.errWord }

/-- Whether the sprite that DRW Vx, Vy, n draws in the state `s` has a set bit at the pixel of column `px` and row `py`
(R143): the row and column are counted from the origin, wrapping. -/
def spriteCovers (s : State) (x y : RegIdx) (n : BitVec 4) (px py : Nat) : Bool :=
  let c := (px + 64 - (s.getV x).toNat % 64) % 64
  let r := (py + 32 - (s.getV y).toNat % 32) % 32
  decide (r < n.toNat) && decide (c < 8) && (s.memRead (s.I.toNat + r)).getLsbD (7 - c)

/-- Iterations one after another (R223). -/
def iterateAll : List NNRat → State → Result
  | [], s => .next s
  | dt :: rest, s => onNext (iterate dt s) (iterateAll rest)

/-- What makes bytes no snapshot (60_exceptions.md R243): another length, another header, or PC, SP or a stack slot out of
range. -/
def snapshotIllFormed (bs : List Byte) : Prop :=
  bs.length ≠ 4440 ∨ bs.take 33 ≠ snapshotHeader ∨ 0xFFF < (wordAt bs 4147).toNat ∨ 16 < (byteAt bs 4149).toNat ∨
    ∃ k, k < 16 ∧ 0xFFF < (wordAt bs (4150 + 2 * k)).toNat

end Sys2Proof.Machine
end

