-- ==== Sys2Proof/Certificates/Slice0/Obligations.lean ====
section
/-! DEFINITION. The statements for the provers, each formalising numbered rules of spec/. -/

open Sys2Proof Sys2Proof.Machine

/-! ### Decoding -/

/-- Words of 95_test_vectors.md 2.1 decode to the instructions it lists (E1 to E15). -/
def Obligations.ListedWordsDecode : Prop :=
  decodeWord false 0x00E0#16 = .ok .cls ∧ decodeWord false 0x00EE#16 = .ok .ret ∧
  decodeWord false 0x00E1#16 = .ok (.sys 0x0E1#12) ∧ decodeWord false 0x0000#16 = .ok (.sys 0x000#12) ∧
  decodeWord false 0x5121#16 = .ok (.seReg 1#4 2#4) ∧ decodeWord true 0x5121#16 = .error (.lowNibble 0x5121#16) ∧
  decodeWord false 0x9AB7#16 = .ok (.sneReg 0xA#4 0xB#4) ∧ decodeWord true 0x9AB7#16 = .error (.lowNibble 0x9AB7#16) ∧
  decodeWord false 0x8008#16 = .error (.aluFunction 0x8008#16) ∧ decodeWord false 0x800F#16 = .error (.aluFunction 0x800F#16) ∧
  decodeWord false 0xE09F#16 = .error (.keyFunction 0xE09F#16) ∧ decodeWord false 0xE0A1#16 = .ok (.sknp 0#4) ∧
  decodeWord false 0xF000#16 = .error (.miscFunction 0xF000#16) ∧ decodeWord false 0xF0FF#16 = .error (.miscFunction 0xF0FF#16) ∧
  decodeWord false 0xFF65#16 = .ok (.ldLoad 0xF#4) ∧ decodeWord false 0x1FFF#16 = .ok (.jp 0xFFF#12) ∧
  decodeWord false 0xD000#16 = .ok (.drw 0#4 0#4 0#4)

/-- Decoding the word of a well-formed instruction gives the instruction, under both values of `STRICT_LOW_NIBBLE`. -/
def Obligations.DecodeOfEncodeIsTheInstruction : Prop :=
  ∀ (strict : Bool) (i : Instr), i.wellFormed = true → decodeWord strict (encode i) = .ok i

/-- Under `STRICT_LOW_NIBBLE = true` a word that decodes is the word of its instruction, which is well-formed: no bit is
dropped. -/
def Obligations.StrictDecodingLosesNoBit : Prop :=
  ∀ (w : Word) (i : Instr), decodeWord true w = .ok i → encode i = w ∧ i.wellFormed = true

/-- R77 with R76: the words that do not decode are exactly those whose function nibble or byte is not listed, and under
`STRICT_LOW_NIBBLE = true` those of 5xyN and 9xyN with N not 0. -/
def Obligations.UnknownWordsAreTheReservedOnes : Prop :=
  ∀ (strict : Bool) (w : Word), (∃ i, decodeWord strict w = .ok i) ↔
    ¬((opField w = 8#4 ∧ (nField w).toNat ∉ [0, 1, 2, 3, 4, 5, 6, 7, 0xE]) ∨
      (opField w = 0xE#4 ∧ (kkField w).toNat ∉ [0x9E, 0xA1]) ∨
      (opField w = 0xF#4 ∧ (kkField w).toNat ∉ [0x07, 0x0A, 0x15, 0x18, 0x1E, 0x29, 0x33, 0x55, 0x65]) ∨
      (strict = true ∧ (opField w = 5#4 ∨ opField w = 9#4) ∧ nField w ≠ 0#4))

/-- A word that decodes matches the mask and match value of its instruction's row of R84's table. -/
def Obligations.DecodedWordMatchesItsTableRow : Prop :=
  ∀ (strict : Bool) (w : Word) (i : Instr), decodeWord strict w = .ok i →
    w &&& (tableRow i).mask = (tableRow i).value

/-! ### Steps -/

/-- A step executes the decoded instruction; around it, it counts the tick (R223), sets the time to that at which the tick is
due where no tick was owed, and, where no instruction tick is owed after that, runs the owed timer ticks, which change nothing
but DT, ST, `tone` and their count (the schedule is the model's: log entry 1). -/
def Obligations.StepRunsTheDecodedInstruction : Prop :=
  ∀ (s t : State) (i : Instr), s.halted = false → s.decoded = .ok i → exec i s = .next t →
    ∃ u, step s = .next u ∧ u.instrDone = t.instrDone + 1 ∧
      u.tTotal = (if t.instrOwed = 0 then mkRat (t.instrDone + 1) t.params.instrRate else t.tTotal) ∧
      u.timerDone = t.timerDone + (if u.instrOwed = 0 then ticksDue u.tTotal 60 - t.timerDone else 0) ∧
      u.DT.toNat = t.DT.toNat - (u.timerDone - t.timerDone) ∧
      u.ST.toNat = t.ST.toNat - (u.timerDone - t.timerDone) ∧
      u.tone = (if u.timerDone = t.timerDone then t.tone else u.ST != 0#8) ∧
      u = { t with DT := u.DT, ST := u.ST, tone := u.tone, tTotal := u.tTotal, instrDone := u.instrDone, timerDone := u.timerDone }

/-- An instruction placed by `withFetchWord` at PC is the one the step executes. Placing it is the model's (log entry 10), and so
is the canonical form of memory in the premise (log entry 19). -/
def Obligations.StepRunsThePlacedInstruction : Prop :=
  ∀ (s : State) (i : Instr), Memory.wf s.params.font s.mem → i.wellFormed = true →
    (s.withFetchWord 16 (encode i).toNat).halted = false ∧
    (s.withFetchWord 16 (encode i).toNat).decoded = .ok i ∧
    step (s.withFetchWord 16 (encode i).toNat) =
      mapNext State.retire (exec i (s.withFetchWord 16 (encode i).toNat))

/-- R78: executing an Unknown word raises UnknownOpcode(PC, w) under `UNKNOWN_OPCODE_POLICY = fatal` and changes no other
state; under `skip` it sets PC to PCnext and changes nothing else. -/
def Obligations.UnknownWordFollowsItsPolicy : Prop :=
  ∀ (s : State) (e : Reject), s.halted = false → s.decoded = .error e →
    ∃ t, instrTick s = .next t ∧
      (s.params.unknownOpcode = .fatal → enteredFatal .unknownOpcode s.fetch s t) ∧
      (s.params.unknownOpcode = .skip → pcAdvanced 2 s t ∧ onlyPcChanged s t)

/-- R206, R207: while halted, an instruction tick does nothing but be counted, and an iteration still runs its owed timer
ticks: it changes no field but the Timing Controller's own, DT, ST and `tone`. -/
def Obligations.HaltedInstructionTickDoesNothing : Prop :=
  ∀ (s : State), s.halted = true → instrTick s = .next s ∧
    (∀ n, runInstrTicks n s = .next { s with instrDone := s.instrDone + n }) ∧
    ∀ dt : NNRat, ∃ t, iterate dt s = .next t ∧
      t.timerDone = s.timerDone + (s.addTime dt).timerOwed ∧
      t.DT.toNat = s.DT.toNat - (s.addTime dt).timerOwed ∧ t.ST.toNat = s.ST.toNat - (s.addTime dt).timerOwed ∧
      t.tone = (if (s.addTime dt).timerOwed = 0 then s.tone else t.ST != 0#8) ∧
      t = { s with DT := t.DT, ST := t.ST, tone := t.tone, tTotal := t.tTotal, instrDone := t.instrDone, timerDone := t.timerDone }

/-- No state faults or refuses: every step and host operation has a next state, a fatal condition among them (log entry 7). -/
def Obligations.EveryTransitionHasANextState : Prop :=
  (∀ s : State, ∃ t, step s = .next t) ∧ (∀ (op : HostOp) (s : State), ∃ t, hostOp op s = .next t)

/-- Every step keeps the invariants of R43 and the canonical form of memory, which is the model's own (log entry 19). -/
def Obligations.StepKeepsTheInvariants : Prop :=
  ∀ s t : State, s.Inv → step s = .next t → t.Inv

/-- After reset (R42) the invariants of R43 hold, with the canonical form of memory, which is the model's own (log entry 19), and
so does the tick accounting of R223. -/
def Obligations.ResetMeetsTheInvariants : Prop := State.reset.Inv ∧ State.reset.OnTime

/-- Every host operation keeps the invariants of R43, a snapshot that would break them being refused (R243), and the canonical
form of memory, which is the model's own (log entry 19). -/
def Obligations.HostOperationsKeepTheInvariants : Prop :=
  ∀ (op : HostOp) (s t : State), s.Inv → hostOp op s = .next t → t.Inv

/-- Every step executes exactly one instruction tick and keeps the tick accounting of R223, under the model's choice of schedule
(log entry 1). -/
def Obligations.StepKeepsTheTickAccounting : Prop :=
  ∀ s t : State, s.OnTime → step s = .next t → t.OnTime ∧ t.instrDone = s.instrDone + 1

/-- A step is the run-loop iteration of R223 whose elapsed time makes exactly one instruction tick owed (model's choice of
schedule: log entry 1). -/
def Obligations.StepIsOneIteration : Prop :=
  ∀ s : State, s.OnTime → ∃ dt : NNRat,
    s.tTotal + (dt : Rat) = ((s.instrDone : Rat) + 1) / (s.params.instrRate : Rat) ∧
    (s.addTime dt).instrOwed = 1 ∧ step s = iterate dt s

/-- R223: after any sequence of iterations, exactly floor(T * INSTR_RATE_HZ) instruction ticks and floor(T * 60) timer ticks
have run, T being the total elapsed time, however it was split; the parameters, a constant field of the model's (log entry 2),
are unchanged. -/
def Obligations.IterationsAreDriftFree : Prop :=
  ∀ (dts : List NNRat) (s t : State), s.OnTime → iterateAll dts s = .next t →
    t.tTotal = s.tTotal + (dts.map fun dt => (dt : Rat)).sum ∧ t.params = s.params ∧
    t.instrDone = ⌊t.tTotal * s.params.instrRate⌋.toNat ∧ t.timerDone = ⌊t.tTotal * 60⌋.toNat

/-- R224, R258: within an iteration the instruction ticks run first, on the timers as they were, and the timer ticks then count
DT and ST down, set `tone` where there is one (R225), and change nothing else but their count. -/
def Obligations.InstructionTicksComeBeforeTimerTicks : Prop :=
  ∀ (dt : NNRat) (s t : State), iterate dt s = .next t →
    ∃ u, runInstrTicks (s.addTime dt).instrOwed (s.addTime dt) = .next u ∧ u.timerDone = s.timerDone ∧
      t.timerDone = u.timerDone + (s.addTime dt).timerOwed ∧
      t.DT.toNat = u.DT.toNat - (s.addTime dt).timerOwed ∧ t.ST.toNat = u.ST.toNat - (s.addTime dt).timerOwed ∧
      t.tone = (if (s.addTime dt).timerOwed = 0 then u.tone else t.ST != 0#8) ∧
      t = { u with DT := t.DT, ST := t.ST, tone := t.tone, timerDone := t.timerDone }

/-- R225: a timer tick decrements both timers by 1, floored at 0, sets `tone` to ST != 0 after the decrement, and changes
nothing else. -/
def Obligations.TimerTickCountsBothTimersDown : Prop :=
  ∀ s : State, s.timerTick.DT.toNat = s.DT.toNat - 1 ∧ s.timerTick.ST.toNat = s.ST.toNat - 1 ∧
    (s.timerTick.tone = true ↔ s.timerTick.ST.toNat ≠ 0) ∧
    s.timerTick = { s with DT := s.timerTick.DT, ST := s.timerTick.ST, tone := s.timerTick.tone }

/-- R262: a timer set to 255, the delay timer or the sound timer, reaches 0 after exactly 255 timer ticks: it is not 0 before,
and stays 0 after. -/
def Obligations.TimerAt255TakesExactly255Ticks : Prop :=
  ∀ (s : State) (n : Nat), (runTimerTicks n s).timerDone = s.timerDone + n ∧
    (s.DT = 255#8 → ((runTimerTicks n s).DT = 0#8 ↔ 255 ≤ n) ∧ (runTimerTicks n s).DT.toNat = 255 - n) ∧
    (s.ST = 255#8 → ((runTimerTicks n s).ST = 0#8 ↔ 255 ≤ n) ∧ (runTimerTicks n s).ST.toNat = 255 - n)

/-! ### Reset, memory and host ports -/

/-- R251: Reset writes every field, the font after clearing memory, and does not write the keypad. -/
def Obligations.ResetWritesEveryField : Prop :=
  ∀ s : State,
    (∀ a, ∀ h : a < 80, s.resetSession.memRead a = s.params.font[a]) ∧
    (∀ a, 80 ≤ a → a < 4096 → s.resetSession.memRead a = 0#8) ∧
    (∀ r, s.resetSession.getV r = 0#8) ∧ s.resetSession.I = 0#16 ∧ s.resetSession.PC = 0x200#16 ∧
    s.resetSession.SP.val = 0 ∧ (∀ k : Fin 16, s.resetSession.stack[k] = 0#16) ∧
    s.resetSession.DT = 0#8 ∧ s.resetSession.ST = 0#8 ∧ s.resetSession.tone = false ∧
    (∀ x y, pixelAt s.resetSession.disp x y = false) ∧ s.resetSession.dirty = true ∧
    (∀ k : Fin 16, s.resetSession.waitPrev[k] = false) ∧ s.resetSession.waitActive = false ∧
    s.resetSession.halted = false ∧ s.resetSession.errKind = .none ∧ s.resetSession.errPc = 0#16 ∧
    s.resetSession.errWord = 0#16 ∧ s.resetSession.tTotal = 0 ∧ s.resetSession.instrDone = 0 ∧
    s.resetSession.timerDone = 0 ∧ s.resetSession.key = s.key

/-- R237: a ROM of more than 3584 bytes is refused and changes nothing; any other is copied to 0x200 after Reset. -/
def Obligations.LoadRomResetsThenCopies : Prop :=
  ∀ (s : State) (rom : List Byte),
    (0xE00 < rom.length → s.loadRom rom = .error .romTooLarge ∧ hostOp (.loadRom rom) s = .next s) ∧
    (rom.length ≤ 0xE00 → ∃ t, s.loadRom rom = .ok t ∧
      (∀ k, ∀ h : k < rom.length, t.memRead (0x200 + k) = rom[k]) ∧
      (∀ a, a < 4096 → a < 0x200 ∨ 0x200 + rom.length ≤ a → t.memRead a = s.resetSession.memRead a) ∧
      t = { s.resetSession with mem := t.mem })

/-- R53: a write stores the byte at the address taken mod 4096 and changes no other byte and no other state, at every
address; R52: a read takes the byte at the address mod 4096. The premise and the last clause, that memory is in its canonical
form and a write keeps it so, are about the model's own form of memory (log entry 19). -/
def Obligations.WriteThenReadIsTheByteWritten : Prop :=
  ∀ (s : State) (a a' : Nat) (v : Byte), Memory.wf s.params.font s.mem →
    s.memRead a' = s.memRead (a' % 4096) ∧
    ((s.memWrite a v).memRead a' = if a' % 4096 = a % 4096 then v else s.memRead a') ∧
    s.memWrite a v = { s with mem := (s.memWrite a v).mem } ∧ Memory.wf s.params.font (s.memWrite a v).mem

/-- Two canonical memories that read alike at every address are the same data. The canonical form is the model's own form of
the memory of R31 and R50, not a rule of the spec (log entry 19). -/
def Obligations.CanonicalMemoryIsDeterminedByItsBytes : Prop :=
  ∀ (font : Font) (m m' : List Host.Cell), Memory.wf font m → Memory.wf font m' →
    (∀ a, a < 4096 → Memory.read font m a = Memory.read font m' a) → m = m'

/-- R54: the fetched word is the byte at PC times 256 plus the byte at PC + 1, addresses mod 4096; bytes just stored there are
what the fetch reads (R67). -/
def Obligations.FetchIsBigEndianAndSeesStores : Prop :=
  ∀ (s : State) (hi lo : Byte), Memory.wf s.params.font s.mem →
    s.fetch.toNat = (s.memRead s.PC.toNat).toNat * 256 + (s.memRead ((s.PC.toNat + 1) % 4096)).toNat ∧
    ((s.memWrite s.PC.toNat hi).memWrite (s.PC.toNat + 1) lo).fetch.toNat = hi.toNat * 256 + lo.toNat

/-- R232, R234, R235, R236: set_keys writes the keypad only, ack_dirty clears `dirty` only, and read_display and status report
their fields and change nothing. -/
def Obligations.PortsChangeOnlyTheirField : Prop :=
  ∀ (s : State) (k : Keys),
    (∃ t, hostOp (.setKeys k) s = .next t ∧ (∀ j : BitVec 4, t.keyDown j = k[j.toNat]'j.isLt) ∧ t = { s with key := t.key }) ∧
    (∃ t, hostOp .ackDirty s = .next t ∧ t.dirty = false ∧ t = { s with dirty := t.dirty }) ∧
    hostOp .readDisplay s = .next s ∧ hostOp .status s = .next s ∧ s.readDisplay = (s.disp, s.dirty) ∧
    s.status.halted = s.halted ∧ s.status.errPc = s.errPc ∧ s.status.errWord = s.errWord ∧
    s.status.waitActive = s.waitActive ∧ s.status.tone = s.tone ∧
    s.status.errKind = (match s.errKind with
      | .none => 0 | .unknownOpcode => 1 | .stackOverflow => 2 | .stackUnderflow => 3 | .addressOutOfRange => 4)

/-- R241, R242: a snapshot is exactly 4440 bytes, the header of R241 and then the nine payloads, each field at its offset and
every 16-bit value big-endian; saving it changes nothing. -/
def Obligations.SnapshotLayoutIsFixed : Prop :=
  ∀ s : State, hostOp .saveSnapshot s = .next s ∧ s.saveSnapshot.length = 4440 ∧
    s.saveSnapshot.take 33 =
      [0x43#8, 0x38#8, 0x53#8, 0x53#8, 0x01#8, 0x09#8, 0x01#8, 0x10#8, 0x00#8, 0x02#8, 0x00#8, 0x10#8, 0x03#8, 0x00#8, 0x02#8,
       0x04#8, 0x00#8, 0x02#8, 0x05#8, 0x00#8, 0x01#8, 0x06#8, 0x00#8, 0x20#8, 0x07#8, 0x00#8, 0x01#8, 0x08#8, 0x00#8, 0x01#8,
       0x09#8, 0x01#8, 0x00#8] ∧
    (∀ a, a < 4096 → byteAt s.saveSnapshot (33 + a) = s.memRead a) ∧
    (∀ r : RegIdx, byteAt s.saveSnapshot (4129 + r.toNat) = s.getV r) ∧
    s.I.toNat = (byteAt s.saveSnapshot 4145).toNat * 256 + (byteAt s.saveSnapshot 4146).toNat ∧
    s.PC.toNat = (byteAt s.saveSnapshot 4147).toNat * 256 + (byteAt s.saveSnapshot 4148).toNat ∧
    (byteAt s.saveSnapshot 4149).toNat = s.SP.val ∧
    (∀ k : Fin 16, s.stack[k].toNat =
      (byteAt s.saveSnapshot (4150 + 2 * k.val)).toNat * 256 + (byteAt s.saveSnapshot (4151 + 2 * k.val)).toNat) ∧
    byteAt s.saveSnapshot 4182 = s.DT ∧ byteAt s.saveSnapshot 4183 = s.ST ∧
    (∀ x y, x < 64 → y < 32 →
      (byteAt s.saveSnapshot (4184 + 8 * y + x / 8)).getLsbD (7 - x % 8) = pixelAt s.disp x y)

/-- R245: loading what a state saved, into any state `u` of the same machine, succeeds and gives every field of the snapshot
content the saved value. -/
def Obligations.LoadOfSaveRestoresTheState : Prop :=
  ∀ s u : State, s.Inv → u.params = s.params → ∃ t, u.loadSnapshot s.saveSnapshot = .ok t ∧
    t.mem = s.mem ∧ t.V = s.V ∧ t.I = s.I ∧ t.PC = s.PC ∧ t.SP = s.SP ∧ t.stack = s.stack ∧
    t.DT = s.DT ∧ t.ST = s.ST ∧ t.disp = s.disp

/-- R243: bytes of another length, with another header, or with PC, SP or a stack slot out of range, are refused and change
nothing; R244: any other bytes replace the fields of the snapshot content, set `dirty`, clear the key wait and leave every
other field. -/
def Obligations.LoadSnapshotIsAllOrNothing : Prop :=
  ∀ (s : State) (bs : List Byte),
    (snapshotIllFormed bs → s.loadSnapshot bs = .error .snapshotFormat ∧ hostOp (.loadSnapshot bs) s = .next s) ∧
    (¬snapshotIllFormed bs → ∃ t, s.loadSnapshot bs = .ok t ∧ hostOp (.loadSnapshot bs) s = .next t ∧
      (∀ a, a < 4096 → t.memRead a = byteAt bs (33 + a)) ∧ (∀ r : RegIdx, t.getV r = byteAt bs (4129 + r.toNat)) ∧
      t.I = wordAt bs 4145 ∧ t.PC = wordAt bs 4147 ∧ t.SP.val = (byteAt bs 4149).toNat ∧
      (∀ k : Fin 16, t.stack[k] = wordAt bs (4150 + 2 * k.val)) ∧ t.DT = byteAt bs 4182 ∧ t.ST = byteAt bs 4183 ∧
      (∀ x y, x < 64 → y < 32 → pixelAt t.disp x y = (byteAt bs (4184 + 8 * y + x / 8)).getLsbD (7 - x % 8)) ∧
      t.dirty = true ∧ t.waitActive = false ∧ (∀ k : Fin 16, t.waitPrev[k] = false) ∧
      t = { s with mem := t.mem, V := t.V, I := t.I, PC := t.PC, SP := t.SP, stack := t.stack, DT := t.DT, ST := t.ST,
                   disp := t.disp, dirty := t.dirty, waitActive := t.waitActive, waitPrev := t.waitPrev })

/-! ### Control flow -/

/-- R103: JP nnn sets PC to nnn and changes nothing else. -/
def Obligations.JpSetsPcToItsTarget : Prop :=
  ∀ (nnn : Addr) (s : State) (strict : Bool), decodeWord strict (0x1#4 ++ nnn) = .ok (.jp nnn) ∧
    ∃ t, exec (.jp nnn) s = .next t ∧ t.PC.toNat = nnn.toNat ∧ onlyPcChanged s t

/-- R104: CALL nnn pushes PCnext and jumps, or raises StackOverflow when SP = 16. -/
def Obligations.CallPushesOrOverflows : Prop :=
  ∀ (nnn : Addr) (s : State) (strict : Bool), decodeWord strict (0x2#4 ++ nnn) = .ok (.call nnn) ∧
    ∃ t, exec (.call nnn) s = .next t ∧
      (s.SP.val = 16 → enteredFatal .stackOverflow (0x2#4 ++ nnn) s t) ∧
      (s.SP.val < 16 → t.SP.val = s.SP.val + 1 ∧ t.PC.toNat = nnn.toNat ∧
        (∀ k : Fin 16, t.stack[k].toNat = if k.val = s.SP.val then (s.PC.toNat + 2) % 4096 else s.stack[k].toNat) ∧
        t = { s with PC := t.PC, SP := t.SP, stack := t.stack } ∧ sameRegsBut [] s t ∧ sameBytes s t)

/-- R102: RET pops the stack into PC, the slot keeping its value, or raises StackUnderflow when SP = 0. The popped value is
in range by the invariant of R43. -/
def Obligations.RetPopsOrUnderflows : Prop :=
  ∀ (s : State) (strict : Bool), (∀ k : Fin 16, s.stack[k].toNat ≤ 0xFFF) → decodeWord strict 0x00EE#16 = .ok .ret ∧
    ∃ t, exec .ret s = .next t ∧
      (s.SP.val = 0 → enteredFatal .stackUnderflow 0x00EE#16 s t) ∧
      (∀ k : Fin 16, s.SP.val = k.val + 1 → t.SP.val = k.val ∧ t.PC = s.stack[k] ∧
        t = { s with PC := t.PC, SP := t.SP } ∧ sameRegsBut [] s t ∧ sameBytes s t)

/-- A RET after a CALL, whatever ran between that left SP and the pushed slot, returns to the instruction after the CALL with
the stack pointer at its depth before it (95_test_vectors.md S9). -/
def Obligations.RetAfterCallReturnsBehindTheCall : Prop :=
  ∀ (nnn : Addr) (s t u : State) (k : Fin 16), s.SP.val = k.val → exec (.call nnn) s = .next t →
    u.SP = t.SP → u.stack[k] = t.stack[k] →
    ∃ v, exec .ret u = .next v ∧ v.SP = s.SP ∧ pcAdvanced 2 s v

/-- R105, R106: SE and SNE with an immediate skip one word where the condition holds, and change nothing else. -/
def Obligations.ImmediateSkipsCompareAndSkip : Prop :=
  ∀ (x : RegIdx) (kk : Byte) (s : State) (strict : Bool),
    decodeWord strict (0x3#4 ++ x ++ kk) = .ok (.seImm x kk) ∧ decodeWord strict (0x4#4 ++ x ++ kk) = .ok (.sneImm x kk) ∧
    (∃ t, exec (.seImm x kk) s = .next t ∧ onlyPcChanged s t ∧
      (s.getV x = kk → pcAdvanced 4 s t) ∧ (s.getV x ≠ kk → pcAdvanced 2 s t)) ∧
    (∃ t, exec (.sneImm x kk) s = .next t ∧ onlyPcChanged s t ∧
      (s.getV x ≠ kk → pcAdvanced 4 s t) ∧ (s.getV x = kk → pcAdvanced 2 s t))

/-- R107, R108: SE and SNE of two registers, for every low nibble under `STRICT_LOW_NIBBLE = false`, and for 0 only under
`true`. -/
def Obligations.RegisterSkipsCompareAndSkip : Prop :=
  ∀ (x y n : BitVec 4) (s : State),
    decodeWord false (0x5#4 ++ x ++ y ++ n) = .ok (.seReg x y) ∧ decodeWord false (0x9#4 ++ x ++ y ++ n) = .ok (.sneReg x y) ∧
    (n = 0#4 → decodeWord true (0x5#4 ++ x ++ y ++ n) = .ok (.seReg x y) ∧
      decodeWord true (0x9#4 ++ x ++ y ++ n) = .ok (.sneReg x y)) ∧
    (n ≠ 0#4 → (∀ i, decodeWord true (0x5#4 ++ x ++ y ++ n) ≠ .ok i) ∧ ∀ i, decodeWord true (0x9#4 ++ x ++ y ++ n) ≠ .ok i) ∧
    (∃ t, exec (.seReg x y) s = .next t ∧ onlyPcChanged s t ∧
      (s.getV x = s.getV y → pcAdvanced 4 s t) ∧ (s.getV x ≠ s.getV y → pcAdvanced 2 s t)) ∧
    (∃ t, exec (.sneReg x y) s = .next t ∧ onlyPcChanged s t ∧
      (s.getV x ≠ s.getV y → pcAdvanced 4 s t) ∧ (s.getV x = s.getV y → pcAdvanced 2 s t))

/-- R109, R110: JP V0, nnn jumps to V0 + nnn mod 4096, or raises AddressOutOfRange where the sum passes 0xFFF under
`JUMP_OVERFLOW_POLICY = fault`. -/
def Obligations.JpV0AddsItsOffset : Prop :=
  ∀ (nnn : Addr) (s : State) (strict : Bool), decodeWord strict (0xB#4 ++ nnn) = .ok (.jpV0 nnn) ∧
    ∃ t, exec (.jpV0 nnn) s = .next t ∧
      (0xFFF < (s.getV 0#4).toNat + nnn.toNat ∧ s.params.jumpOverflow = .fault →
        enteredFatal .addressOutOfRange (0xB#4 ++ nnn) s t) ∧
      (¬(0xFFF < (s.getV 0#4).toNat + nnn.toNat ∧ s.params.jumpOverflow = .fault) →
        t.PC.toNat = ((s.getV 0#4).toNat + nnn.toNat) % 4096 ∧ onlyPcChanged s t)

/-- R100: SYS raises UnknownOpcode with its word under `SYS_POLICY = fatal`, and only advances PC under `nop`. -/
def Obligations.SysFollowsItsPolicy : Prop :=
  ∀ (nnn : Addr) (s : State) (strict : Bool),
    (nnn ≠ 0x0E0#12 → nnn ≠ 0x0EE#12 → decodeWord strict (0x0#4 ++ nnn) = .ok (.sys nnn)) ∧
    ∃ t, exec (.sys nnn) s = .next t ∧
      (s.params.sysPolicy = .fatal → enteredFatal .unknownOpcode (0x0#4 ++ nnn) s t) ∧
      (s.params.sysPolicy = .nop → pcAdvanced 2 s t ∧ onlyPcChanged s t)

/-! ### Registers and arithmetic -/

/-- R122, R123, R124: the register loads and the immediate add, which writes no flag. -/
def Obligations.LoadsAndImmediateAddWriteTheirRegister : Prop :=
  ∀ (x y : RegIdx) (kk : Byte) (s : State) (strict : Bool),
    decodeWord strict (0x6#4 ++ x ++ kk) = .ok (.ldImm x kk) ∧ decodeWord strict (0x7#4 ++ x ++ kk) = .ok (.addImm x kk) ∧
    decodeWord strict (0x8#4 ++ x ++ y ++ 0x0#4) = .ok (.ldReg x y) ∧
    (∃ t, exec (.ldImm x kk) s = .next t ∧ t.getV x = kk ∧ onlyRegsChanged [x] s t) ∧
    (∃ t, exec (.addImm x kk) s = .next t ∧ (t.getV x).toNat = ((s.getV x).toNat + kk.toNat) % 256 ∧ onlyRegsChanged [x] s t) ∧
    (∃ t, exec (.ldReg x y) s = .next t ∧ t.getV x = s.getV y ∧ onlyRegsChanged [x] s t)

/-- R125, R126, R127: OR, AND and XOR bit by bit, VF an ordinary register. -/
def Obligations.LogicWorksBitByBit : Prop :=
  ∀ (x y : RegIdx) (s : State) (strict : Bool),
    decodeWord strict (0x8#4 ++ x ++ y ++ 0x1#4) = .ok (.orReg x y) ∧
    decodeWord strict (0x8#4 ++ x ++ y ++ 0x2#4) = .ok (.andReg x y) ∧
    decodeWord strict (0x8#4 ++ x ++ y ++ 0x3#4) = .ok (.xorReg x y) ∧
    (∃ t, exec (.orReg x y) s = .next t ∧ onlyRegsChanged [x] s t ∧
      ∀ k, k < 8 → (t.getV x).getLsbD k = ((s.getV x).getLsbD k || (s.getV y).getLsbD k)) ∧
    (∃ t, exec (.andReg x y) s = .next t ∧ onlyRegsChanged [x] s t ∧
      ∀ k, k < 8 → (t.getV x).getLsbD k = ((s.getV x).getLsbD k && (s.getV y).getLsbD k)) ∧
    (∃ t, exec (.xorReg x y) s = .next t ∧ onlyRegsChanged [x] s t ∧
      ∀ k, k < 8 → (t.getV x).getLsbD k = ((s.getV x).getLsbD k != (s.getV y).getLsbD k))

/-- R128: ADD Vx, Vy writes the sum mod 256, then VF the carry, which is what remains where x = F. -/
def Obligations.AddRegisterSetsCarry : Prop :=
  ∀ (x y : RegIdx) (s : State) (strict : Bool), decodeWord strict (0x8#4 ++ x ++ y ++ 0x4#4) = .ok (.addReg x y) ∧
    ∃ t, exec (.addReg x y) s = .next t ∧ onlyRegsChanged [x, vf] s t ∧
      (t.getV vf).toNat = ((s.getV x).toNat + (s.getV y).toNat) / 256 ∧
      (x ≠ vf → (t.getV x).toNat = ((s.getV x).toNat + (s.getV y).toNat) % 256)

/-- R129, R131: SUB and SUBN write the difference mod 256, then VF = 1 where no borrow occurs. -/
def Obligations.SubtractionsSetNoBorrow : Prop :=
  ∀ (x y : RegIdx) (s : State) (strict : Bool),
    decodeWord strict (0x8#4 ++ x ++ y ++ 0x5#4) = .ok (.sub x y) ∧ decodeWord strict (0x8#4 ++ x ++ y ++ 0x7#4) = .ok (.subn x y) ∧
    (∃ t, exec (.sub x y) s = .next t ∧ onlyRegsChanged [x, vf] s t ∧
      (t.getV vf).toNat = (if (s.getV y).toNat ≤ (s.getV x).toNat then 1 else 0) ∧
      (x ≠ vf → (t.getV x).toNat = (256 + (s.getV x).toNat - (s.getV y).toNat) % 256)) ∧
    (∃ t, exec (.subn x y) s = .next t ∧ onlyRegsChanged [x, vf] s t ∧
      (t.getV vf).toNat = (if (s.getV x).toNat ≤ (s.getV y).toNat then 1 else 0) ∧
      (x ≠ vf → (t.getV x).toNat = (256 + (s.getV y).toNat - (s.getV x).toNat) % 256))

/-- R130, R132: SHR and SHL shift the register that `SHIFT_SOURCE` names by one bit, VF receiving the bit shifted out. -/
def Obligations.ShiftsSetTheBitShiftedOut : Prop :=
  ∀ (x y : RegIdx) (s : State) (strict : Bool) (v : Nat),
    v = (if s.params.shiftSource = .vx then (s.getV x).toNat else (s.getV y).toNat) →
    decodeWord strict (0x8#4 ++ x ++ y ++ 0x6#4) = .ok (.shr x y) ∧ decodeWord strict (0x8#4 ++ x ++ y ++ 0xE#4) = .ok (.shl x y) ∧
    (∃ t, exec (.shr x y) s = .next t ∧ onlyRegsChanged [x, vf] s t ∧
      (t.getV vf).toNat = v % 2 ∧ (x ≠ vf → (t.getV x).toNat = v / 2)) ∧
    (∃ t, exec (.shl x y) s = .next t ∧ onlyRegsChanged [x, vf] s t ∧
      (t.getV vf).toNat = v / 128 ∧ (x ≠ vf → (t.getV x).toNat = 2 * v % 256))

/-- R133: RND writes the fresh draw ANDed with kk, whatever the draw is. That the draw is the free value
`Config.entropy` at the count of draws, and that RND advances that count by 1, is the model's form of the entropy input
(log entry 3). -/
def Obligations.RndMasksAFreshDraw : Prop :=
  ∀ (x : RegIdx) (kk : Byte) (s : State) (strict : Bool), decodeWord strict (0xC#4 ++ x ++ kk) = .ok (.rnd x kk) ∧
    ∃ t, exec (.rnd x kk) s = .next t ∧ t.draws = s.draws + 1 ∧ pcAdvanced 2 s t ∧
      (∀ k, k < 8 → (t.getV x).getLsbD k = ((Config.entropy s.draws).getLsbD k && kk.getLsbD k)) ∧
      sameRegsBut [x] s t ∧ sameBytes s t ∧ t = { s with V := t.V, PC := t.PC, draws := t.draws }

/-! ### Display -/

/-- R142: CLS unsets every pixel, sets `dirty`, and changes nothing else. -/
def Obligations.ClsBlanksTheDisplay : Prop :=
  ∀ (s : State) (strict : Bool), decodeWord strict 0x00E0#16 = .ok .cls ∧
    ∃ t, exec .cls s = .next t ∧ (∀ px py, pixelAt t.disp px py = false) ∧ t.dirty = true ∧ pcAdvanced 2 s t ∧
      sameRegsBut [] s t ∧ sameBytes s t ∧ t = { s with disp := t.disp, dirty := t.dirty, PC := t.PC }

/-- R143: DRW XORs the sprite's set bits into the display, wrapping, sets VF to 1 exactly when one of them was set before, sets
`dirty` when one pixel changes, and changes nothing else; x and y are read before VF is written. -/
def Obligations.DrwXorsTheSpriteAndReportsCollision : Prop :=
  ∀ (x y : RegIdx) (n : BitVec 4) (s : State) (strict : Bool),
    decodeWord strict (0xD#4 ++ x ++ y ++ n) = .ok (.drw x y n) ∧
    ∃ t, exec (.drw x y n) s = .next t ∧
      (∀ px py, px < 64 → py < 32 → pixelAt t.disp px py = (pixelAt s.disp px py != spriteCovers s x y n px py)) ∧
      (t.getV vf = 0#8 ∨ t.getV vf = 1#8) ∧
      (t.getV vf = 1#8 ↔ ∃ px py, px < 64 ∧ py < 32 ∧ spriteCovers s x y n px py = true ∧ pixelAt s.disp px py = true) ∧
      (t.dirty = true ↔ s.dirty = true ∨ ∃ px py, px < 64 ∧ py < 32 ∧ spriteCovers s x y n px py = true) ∧
      pcAdvanced 2 s t ∧ sameRegsBut [vf] s t ∧ sameBytes s t ∧
      t = { s with disp := t.disp, dirty := t.dirty, V := t.V, PC := t.PC }

/-- R145: DRW with n = 0 is no Unknown word and draws no row: VF is 0, the buffer and `dirty` are unchanged and PC advances
by 2. -/
def Obligations.DrwOfHeightZeroDrawsNothing : Prop :=
  ∀ (x y : RegIdx) (s : State) (strict : Bool), decodeWord strict (0xD#4 ++ x ++ y ++ 0x0#4) = .ok (.drw x y 0#4) ∧
    ∃ t, exec (.drw x y 0#4) s = .next t ∧ t.getV vf = 0#8 ∧ onlyRegsChanged [vf] s t

/-- R146, read from R143: drawing the same sprite twice at the same origin restores every pixel, and the second draw reports
VF = 1 exactly when some pixel it covers was unset before the first draw, so on a blank display whenever the sprite has a set
bit. The origin is the same where neither register is VF (log entry 9). -/
def Obligations.DrawingTwiceRestoresTheDisplay : Prop :=
  ∀ (x y : RegIdx) (n : BitVec 4) (s t u : State), x ≠ vf → y ≠ vf →
    exec (.drw x y n) s = .next t → exec (.drw x y n) t = .next u →
    u.disp = s.disp ∧
      (u.getV vf = 1#8 ↔
        ∃ px py, px < 64 ∧ py < 32 ∧ spriteCovers s x y n px py = true ∧ pixelAt s.disp px py = false) ∧
      ((∀ px py, pixelAt s.disp px py = false) →
        (∃ r c, r < n.toNat ∧ c < 8 ∧ (s.memRead (s.I.toNat + r)).getLsbD c = true) → u.getV vf = 1#8)

/-! ### Keypad and timers -/

/-- R161, R162: SKP and SKNP test the key that the low nibble of V[x] names. -/
def Obligations.KeySkipsTestTheNamedKey : Prop :=
  ∀ (x k : BitVec 4) (s : State) (strict : Bool), k.toNat = (s.getV x).toNat % 16 →
    decodeWord strict (0xE#4 ++ x ++ 0x9E#8) = .ok (.skp x) ∧ decodeWord strict (0xE#4 ++ x ++ 0xA1#8) = .ok (.sknp x) ∧
    (∃ t, exec (.skp x) s = .next t ∧ onlyPcChanged s t ∧
      (s.keyDown k = true → pcAdvanced 4 s t) ∧ (s.keyDown k = false → pcAdvanced 2 s t)) ∧
    (∃ t, exec (.sknp x) s = .next t ∧ onlyPcChanged s t ∧
      (s.keyDown k = false → pcAdvanced 4 s t) ∧ (s.keyDown k = true → pcAdvanced 2 s t))

/-- R163: LD Vx, K starts the wait, or polls with no new press, or stores the least newly pressed key and ends the wait. -/
def Obligations.KeyWaitTakesTheLeastNewPress : Prop :=
  ∀ (x : RegIdx) (s : State) (strict : Bool), decodeWord strict (0xF#4 ++ x ++ 0x0A#8) = .ok (.ldVxK x) ∧
    ∃ t, exec (.ldVxK x) s = .next t ∧ sameBytes s t ∧
      t = { s with V := t.V, PC := t.PC, waitActive := t.waitActive, waitPrev := t.waitPrev } ∧
      (s.waitActive = false → t.waitActive = true ∧ t.waitPrev = s.key ∧ t.PC = s.PC ∧ sameRegsBut [] s t) ∧
      (s.waitActive = true → (∀ k : Fin 16, ¬(s.key[k] = true ∧ s.waitPrev[k] = false)) →
        t.waitActive = true ∧ t.waitPrev = s.key ∧ t.PC = s.PC ∧ sameRegsBut [] s t) ∧
      (∀ k : Fin 16, s.waitActive = true → s.key[k] = true ∧ s.waitPrev[k] = false →
        (∀ j : Fin 16, j < k → ¬(s.key[j] = true ∧ s.waitPrev[j] = false)) →
        (t.getV x).toNat = k.val ∧ t.waitActive = false ∧ (∀ j : Fin 16, t.waitPrev[j] = false) ∧ pcAdvanced 2 s t ∧
          sameRegsBut [x] s t)

/-- R165, R166, R167: reading and setting the timers; `tone` does not change. -/
def Obligations.TimerInstructionsMoveTheTimers : Prop :=
  ∀ (x : RegIdx) (s : State) (strict : Bool),
    decodeWord strict (0xF#4 ++ x ++ 0x07#8) = .ok (.ldVxDt x) ∧ decodeWord strict (0xF#4 ++ x ++ 0x15#8) = .ok (.ldDtVx x) ∧
    decodeWord strict (0xF#4 ++ x ++ 0x18#8) = .ok (.ldStVx x) ∧
    (∃ t, exec (.ldVxDt x) s = .next t ∧ t.getV x = s.DT ∧ onlyRegsChanged [x] s t) ∧
    (∃ t, exec (.ldDtVx x) s = .next t ∧ t.DT = s.getV x ∧ pcAdvanced 2 s t ∧ t = { s with DT := t.DT, PC := t.PC } ∧
      sameRegsBut [] s t ∧ sameBytes s t) ∧
    (∃ t, exec (.ldStVx x) s = .next t ∧ t.ST = s.getV x ∧ t.tone = s.tone ∧ pcAdvanced 2 s t ∧
      t = { s with ST := t.ST, PC := t.PC } ∧ sameRegsBut [] s t ∧ sameBytes s t)

/-! ### Index register and memory -/

/-- R181, R182, R183: LD I, ADD I (16-bit, no flag) and LD F write I and change nothing else. -/
def Obligations.IndexInstructionsWriteI : Prop :=
  ∀ (nnn : Addr) (x : RegIdx) (s : State) (strict : Bool),
    decodeWord strict (0xA#4 ++ nnn) = .ok (.ldI nnn) ∧ decodeWord strict (0xF#4 ++ x ++ 0x1E#8) = .ok (.addI x) ∧
    decodeWord strict (0xF#4 ++ x ++ 0x29#8) = .ok (.ldF x) ∧
    (∃ t, exec (.ldI nnn) s = .next t ∧ t.I.toNat = nnn.toNat ∧ pcAdvanced 2 s t ∧ t = { s with I := t.I, PC := t.PC } ∧
      sameRegsBut [] s t ∧ sameBytes s t) ∧
    (∃ t, exec (.addI x) s = .next t ∧ t.I.toNat = (s.I.toNat + (s.getV x).toNat) % 65536 ∧ pcAdvanced 2 s t ∧
      t = { s with I := t.I, PC := t.PC } ∧ sameRegsBut [] s t ∧ sameBytes s t) ∧
    (∃ t, exec (.ldF x) s = .next t ∧ t.I.toNat = 5 * ((s.getV x).toNat % 16) ∧ pcAdvanced 2 s t ∧
      t = { s with I := t.I, PC := t.PC } ∧ sameRegsBut [] s t ∧ sameBytes s t)

/-- R184: LD B stores the decimal digits of V[x] at I, I + 1, I + 2, wrapping, and changes no other byte and no register. -/
def Obligations.BcdStoresThreeDigits : Prop :=
  ∀ (x : RegIdx) (s : State) (strict : Bool), Memory.wf s.params.font s.mem →
    decodeWord strict (0xF#4 ++ x ++ 0x33#8) = .ok (.ldB x) ∧
    ∃ t, exec (.ldB x) s = .next t ∧
      (t.memRead (s.indexAddr 0)).toNat = (s.getV x).toNat / 100 ∧
      (t.memRead (s.indexAddr 1)).toNat = (s.getV x).toNat / 10 % 10 ∧
      (t.memRead (s.indexAddr 2)).toNat = (s.getV x).toNat % 10 ∧
      sameBytesBut [s.indexAddr 0, s.indexAddr 1, s.indexAddr 2] s t ∧ pcAdvanced 2 s t ∧ sameRegsBut [] s t ∧
      t = { s with mem := t.mem, PC := t.PC }

/-- R185: LD [I], Vx stores V0 to Vx at I onwards, wrapping; I changes by `LOADSTORE_I_POLICY` only. -/
def Obligations.BlockStoreCopiesRegistersToMemory : Prop :=
  ∀ (x : RegIdx) (s : State) (strict : Bool), Memory.wf s.params.font s.mem →
    decodeWord strict (0xF#4 ++ x ++ 0x55#8) = .ok (.ldStore x) ∧
    ∃ t, exec (.ldStore x) s = .next t ∧
      (∀ r : RegIdx, r.toNat ≤ x.toNat → t.memRead (s.indexAddr r.toNat) = s.getV r) ∧
      sameBytesBut ((List.range (x.toNat + 1)).map s.indexAddr) s t ∧
      (s.params.indexPolicy = .unchanged → t.I = s.I) ∧
      (s.params.indexPolicy = .increment → t.I.toNat = (s.I.toNat + x.toNat + 1) % 65536) ∧
      pcAdvanced 2 s t ∧ sameRegsBut [] s t ∧ t = { s with mem := t.mem, I := t.I, PC := t.PC }

/-- R186: LD Vx, [I] loads V0 to Vx from I onwards, wrapping; I changes by `LOADSTORE_I_POLICY` only. -/
def Obligations.BlockLoadCopiesMemoryToRegisters : Prop :=
  ∀ (x : RegIdx) (s : State) (strict : Bool), decodeWord strict (0xF#4 ++ x ++ 0x65#8) = .ok (.ldLoad x) ∧
    ∃ t, exec (.ldLoad x) s = .next t ∧
      (∀ r : RegIdx, t.getV r = if r.toNat ≤ x.toNat then s.memRead (s.indexAddr r.toNat) else s.getV r) ∧
      (s.params.indexPolicy = .unchanged → t.I = s.I) ∧
      (s.params.indexPolicy = .increment → t.I.toNat = (s.I.toNat + x.toNat + 1) % 65536) ∧
      pcAdvanced 2 s t ∧ sameBytes s t ∧ t = { s with V := t.V, I := t.I, PC := t.PC }

/-! ### Rules over all instructions -/

/-- R203, R204: an instruction that ends halted made none of its writes (R201), and its condition is UnknownOpcode from
SYS under `SYS_POLICY = fatal`, StackOverflow from CALL with SP = 16, StackUnderflow from RET with SP = 0, or AddressOutOfRange
from JP V0. -/
def Obligations.FatalEntryIsPrecise : Prop :=
  ∀ (i : Instr) (s t : State), s.halted = false → exec i s = .next t → t.halted = true →
    enteredFatal t.errKind (encode i) s t ∧
    ((t.errKind = .unknownOpcode ∧ s.params.sysPolicy = .fatal ∧ ∃ nnn, i = .sys nnn) ∨
      (t.errKind = .stackOverflow ∧ s.SP.val = 16 ∧ ∃ nnn, i = .call nnn) ∨
      (t.errKind = .stackUnderflow ∧ s.SP.val = 0 ∧ i = .ret) ∨
      (t.errKind = .addressOutOfRange ∧ s.params.jumpOverflow = .fault ∧
        ∃ nnn : Addr, i = .jpV0 nnn ∧ 0xFFF < (s.getV 0#4).toNat + nnn.toNat))

/-- R22: the instructions that write VF as a flag are ADD Vx, Vy, SUB, SHR, SUBN, SHL and DRW; every other instruction leaves VF
unless its register field names it, or it loads all sixteen registers. -/
def Obligations.OnlyTheFlagFormsWriteVfAsAFlag : Prop :=
  ∀ (i : Instr) (s t : State), exec i s = .next t → t.getV vf ≠ s.getV vf →
    (∃ x y, i = .addReg x y ∨ i = .sub x y ∨ i = .shr x y ∨ i = .subn x y ∨ i = .shl x y ∨ ∃ n, i = .drw x y n) ∨
    (∃ y kk, i = .ldImm vf kk ∨ i = .addImm vf kk ∨ i = .ldReg vf y ∨ i = .orReg vf y ∨ i = .andReg vf y ∨ i = .xorReg vf y ∨
      i = .rnd vf kk ∨ i = .ldVxDt vf ∨ i = .ldVxK vf ∨ i = .ldLoad vf)

/-- R27, R28: no instruction but CALL and RET changes SP, and none but CALL changes a stack slot. -/
def Obligations.OnlyCallAndRetMoveTheStack : Prop :=
  ∀ (i : Instr) (s t : State), exec i s = .next t →
    (t.SP ≠ s.SP → (∃ nnn, i = .call nnn) ∨ i = .ret) ∧ (t.stack ≠ s.stack → ∃ nnn, i = .call nnn)

/-- R29, R30, R36, R39, R227: no instruction writes the keypad, `tone` or the Timing Controller's fields; DT is written only by
LD DT, Vx and ST only by LD ST, Vx. The model's own two fields: no instruction writes the parameters (R9, log entry 2), and
only RND takes a draw (R133, log entry 3). -/
def Obligations.InstructionsLeaveTheHostAndClockFields : Prop :=
  ∀ (i : Instr) (s t : State), exec i s = .next t →
    t.key = s.key ∧ t.tone = s.tone ∧ t.tTotal = s.tTotal ∧ t.instrDone = s.instrDone ∧ t.timerDone = s.timerDone ∧
    t.params = s.params ∧ (t.DT ≠ s.DT → ∃ x, i = .ldDtVx x) ∧ (t.ST ≠ s.ST → ∃ x, i = .ldStVx x) ∧
    (t.draws ≠ s.draws → ∃ x kk, i = .rnd x kk)

/-- R57: no instruction but LD B and LD [I], Vx writes memory. -/
def Obligations.OnlyTheStoreFormsWriteMemory : Prop :=
  ∀ (i : Instr) (s t : State), exec i s = .next t →
    (∃ x, i = .ldB x ∨ i = .ldStore x) ∨ (sameBytes s t ∧ t.mem = s.mem)

/-- R141: the core sets `dirty` exactly when it changes the display buffer: by every CLS, and by every DRW that changes a
pixel; no instruction clears it, and no other instruction changes the display. -/
def Obligations.DisplayChangesSetDirty : Prop :=
  ∀ (i : Instr) (s t : State), exec i s = .next t →
    (s.dirty = true → t.dirty = true) ∧ (t.disp ≠ s.disp → t.dirty = true) ∧ (i = .cls → t.dirty = true) ∧
    (t.disp = s.disp → i ≠ .cls → t.dirty = s.dirty) ∧
    (t.disp ≠ s.disp ∨ t.dirty ≠ s.dirty → i = .cls ∨ ∃ x y n, i = .drw x y n)

/-- R24: every instruction that changes PC leaves it in the 12-bit range, from any state. -/
def Obligations.PcIsMaskedByEveryWrite : Prop :=
  ∀ (i : Instr) (s t : State), exec i s = .next t → t.PC ≠ s.PC → t.PC.toNat ≤ 0xFFF
end

