-- ==== Sys2Proof/Laws/Memory.lean ====
section
/-! SUPPORT. The laws of the canonical memory list: a read after a write, and that every operation keeps the canonical
form. -/

namespace Sys2Proof.Machine.Memory

variable {font : Font}

/-- The addresses of a canonical list rise, so nothing before its first address is listed. -/
theorem lookup_eq_none {m : List Host.Cell} {a : Nat} (h : ∀ c ∈ m, a < c.1) : lookup m a = none := by
  induction m with
  | nil => rfl
  | cons c rest ih =>
    have hc := h c (by simp)
    simp only [lookup, if_neg (Nat.ne_of_gt hc)]
    exact ih fun d hd => h d (by simp [hd])

theorem lookup_mem {m : List Host.Cell} {a : Nat} {b : Byte} (h : lookup m a = some b) : (a, b) ∈ m := by
  induction m with
  | nil => simp [lookup] at h
  | cons c rest ih =>
    obtain ⟨a', b'⟩ := c
    simp only [lookup] at h
    split at h
    · next e => cases h; simp [e]
    · simp [ih h]

/-- A listed byte is found: the canonical form lists an address once. -/
theorem lookup_of_mem {m : List Host.Cell} {a : Nat} {b : Byte} (hm : m.Pairwise fun c d => c.1 < d.1)
    (h : (a, b) ∈ m) : lookup m a = some b := by
  induction m with
  | nil => simp at h
  | cons c rest ih =>
    obtain ⟨a', b'⟩ := c
    rw [List.pairwise_cons] at hm
    rcases List.mem_cons.1 h with e | hr
    · cases e; simp [lookup]
    · have hlt := hm.1 _ hr
      have hne : a' ≠ a := Nat.ne_of_lt hlt
      simp [lookup, hne, ih hm.2 hr]

/-- After a put, the address reads as put and every other address as before. -/
theorem lookup_put {m : List Host.Cell} (hm : m.Pairwise fun c d => c.1 < d.1) (a : Nat) (v : Option Byte) (a' : Nat) :
    lookup (put a v m) a' = if a' = a then v else lookup m a' := by
  induction m with
  | nil => cases v <;> simp [put, lookup, eq_comm]
  | cons c rest ih =>
    obtain ⟨k, b⟩ := c
    rw [List.pairwise_cons] at hm
    have ih := ih hm.2
    simp only [put]
    split
    · next hk =>
      simp only [lookup, ih]
      split
      · next e => subst e; rw [if_neg (by omega)]
      · rfl
    · next hk =>
      split
      · next e =>
        subst e
        cases v with
        | none =>
          by_cases e : a' = k
          · subst e; simpa [lookup] using lookup_eq_none hm.1
          · simp [lookup, e, Ne.symm e]
        | some w =>
          by_cases e : a' = k
          · subst e; simp [lookup]
          · simp [lookup, e, Ne.symm e]
      · next hne =>
        have hnone : lookup ((k, b) :: rest) a = none := by
          refine lookup_eq_none fun d hd => ?_
          rcases List.mem_cons.1 hd with e | hr
          · subst e; simp only; omega
          · have := hm.1 d hr; simp only at this; omega
        cases v with
        | none =>
          by_cases e : a' = a
          · subst e; simpa using hnone
          · simp [e]
        | some w =>
          by_cases e : a' = a
          · subst e; simp [lookup]
          · simp [lookup, e, Ne.symm e]

/-- The cells of a put list are the old ones and the one put. -/
theorem mem_put {m : List Host.Cell} {a : Nat} {v : Option Byte} {c : Host.Cell} (h : c ∈ put a v m) :
    c ∈ m ∨ (c.1 = a ∧ v = some c.2) := by
  induction m with
  | nil => cases v <;> simp_all [put]
  | cons d rest ih =>
    obtain ⟨k, b⟩ := d
    simp only [put] at h
    split at h
    · rcases List.mem_cons.1 h with e | hr
      · simp [e]
      · rcases ih hr with h1 | h1
        · simp [h1]
        · exact .inr h1
    · split at h
      all_goals
        cases v with
        | none => simp_all
        | some w =>
          simp only [Option.map_some, Option.toList_some, List.cons_append, List.nil_append, List.mem_cons] at h
          rcases h with e | hr
          · exact .inr ⟨by simp [e], by simp [e]⟩
          · simp_all

theorem pairwise_put {m : List Host.Cell} (hm : m.Pairwise fun c d => c.1 < d.1) (a : Nat) (v : Option Byte) :
    (put a v m).Pairwise fun c d => c.1 < d.1 := by
  induction m with
  | nil => cases v <;> simp [put]
  | cons d rest ih =>
    obtain ⟨k, b⟩ := d
    rw [List.pairwise_cons] at hm
    simp only [put]
    split
    · next hk =>
      refine List.pairwise_cons.2 ⟨fun c hc => ?_, ih hm.2⟩
      rcases mem_put hc with h | h
      · exact hm.1 c h
      · simp only; omega
    · next hk =>
      split
      · next e =>
        cases v with
        | none => simpa using hm.2
        | some w => simpa [← e] using hm
      · next hne =>
        cases v with
        | none => simpa using hm
        | some w =>
          simp only [Option.map_some, Option.toList_some, List.cons_append, List.nil_append, List.pairwise_cons]
          refine ⟨fun c hc => ?_, hm⟩
          rcases List.mem_cons.1 hc with e | hr
          · subst e; simp only; omega
          · have := hm.1 c hr; simp only at this; omega

/-- A write keeps the canonical form. -/
theorem wf_write {m : List Host.Cell} (hm : wf font m) {a : Nat} (ha : a < 4096) (v : Byte) :
    wf font (write font a v m) := by
  refine ⟨pairwise_put hm.1 _ _, fun c hc => ?_⟩
  rcases mem_put hc with h | ⟨h1, h2⟩
  · exact hm.2 c h
  · rw [h1]
    split at h2
    · cases h2
    · next hne => cases h2; exact ⟨ha, hne⟩

/-- A read after a write gives the byte written at its address and the old byte elsewhere. -/
theorem read_write {m : List Host.Cell} (hm : wf font m) (a : Nat) (v : Byte) (a' : Nat) :
    read font (write font a v m) a' = if a' = a then v else read font m a' := by
  simp only [read, write, lookup_put hm.1]
  by_cases e : a' = a
  · subst e
    by_cases hv : v = resetByte font a'
    · simp [← hv]
    · simp [hv]
  · simp [e]

theorem lookup_ofBytes (a : Nat) (bs : List Byte) (k : Nat) :
    lookup (ofBytes font a bs) k =
      if h : a ≤ k ∧ k - a < bs.length then
        if bs[k - a]'h.2 = resetByte font k then none else some (bs[k - a]'h.2)
      else none := by
  induction bs generalizing a with
  | nil => simp [ofBytes, lookup]
  | cons b rest ih =>
    by_cases hk : k = a
    · subst hk
      by_cases hb : b = resetByte font k
      · simp only [ofBytes, if_pos hb, ih]
        simp [hb]
      · simp [ofBytes, hb, lookup]
    · have hstep : lookup (ofBytes font a (b :: rest)) k = lookup (ofBytes font (a + 1) rest) k := by
        simp only [ofBytes]
        split
        · rfl
        · simp [lookup, Ne.symm hk]
      rw [hstep, ih]
      by_cases hc : a + 1 ≤ k ∧ k - (a + 1) < rest.length
      · have hc' : a ≤ k ∧ k - a < (b :: rest).length := by simp only [List.length_cons]; omega
        have e : k - a = k - (a + 1) + 1 := by omega
        rw [dif_pos hc, dif_pos hc']
        simp only [e, List.getElem_cons_succ]
      · have hc' : ¬(a ≤ k ∧ k - a < (b :: rest).length) := by simp only [List.length_cons]; omega
        rw [dif_neg hc, dif_neg hc']

/-- Memory built from bytes reads as those bytes. -/
theorem read_ofBytes (a : Nat) (bs : List Byte) (k : Nat) (h : k < bs.length) :
    read font (ofBytes font a bs) (a + k) = bs[k] := by
  have h' : a ≤ a + k ∧ a + k - a < bs.length := by omega
  rw [read, lookup_ofBytes, dif_pos h']
  simp only [Nat.add_sub_cancel_left]
  split
  · next e => simp [e]
  · simp

theorem mem_ofBytes {a : Nat} {bs : List Byte} {c : Host.Cell} (h : c ∈ ofBytes font a bs) :
    a ≤ c.1 ∧ c.1 < a + bs.length ∧ c.2 ≠ resetByte font c.1 := by
  induction bs generalizing a with
  | nil => simp [ofBytes] at h
  | cons b rest ih =>
    simp only [ofBytes] at h
    simp only [List.length_cons]
    split at h
    · have := ih h; exact ⟨by omega, by omega, this.2.2⟩
    · next hb =>
      rcases List.mem_cons.1 h with e | hr
      · subst e; exact ⟨Nat.le_refl _, by simp only; omega, hb⟩
      · have := ih hr; exact ⟨by omega, by omega, this.2.2⟩

/-- Memory built from the bytes of the address space is canonical. -/
theorem wf_ofBytes {a : Nat} {bs : List Byte} (h : a + bs.length ≤ 4096) : wf font (ofBytes font a bs) := by
  constructor
  · induction bs generalizing a with
    | nil => simp [ofBytes]
    | cons b rest ih =>
      simp only [List.length_cons] at h
      simp only [ofBytes]
      split
      · exact ih (by omega)
      · refine List.pairwise_cons.2 ⟨fun c hc => ?_, ih (by omega)⟩
        have := mem_ofBytes hc
        simp only; omega
  · intro c hc
    have := mem_ofBytes hc
    exact ⟨by omega, this.2.2⟩

end Sys2Proof.Machine.Memory
end

