-- ==== Sys2Proof/Laws/State.lean ====
section
/-! SUPPORT. What each named update does to each field of State: one lemma for each field, so that no proof unfolds a record
update. -/

namespace Sys2Proof.Machine.State

variable (s : State)

section memWrite
variable (a : Nat) (v : Byte)

@[simp] theorem memWrite_mem : (s.memWrite a v).mem = Memory.write s.params.font (a % 4096) v s.mem := rfl
@[simp] theorem memWrite_V : (s.memWrite a v).V = s.V := rfl
@[simp] theorem memWrite_I : (s.memWrite a v).I = s.I := rfl
@[simp] theorem memWrite_PC : (s.memWrite a v).PC = s.PC := rfl
@[simp] theorem memWrite_SP : (s.memWrite a v).SP = s.SP := rfl
@[simp] theorem memWrite_stack : (s.memWrite a v).stack = s.stack := rfl
@[simp] theorem memWrite_DT : (s.memWrite a v).DT = s.DT := rfl
@[simp] theorem memWrite_ST : (s.memWrite a v).ST = s.ST := rfl
@[simp] theorem memWrite_disp : (s.memWrite a v).disp = s.disp := rfl
@[simp] theorem memWrite_dirty : (s.memWrite a v).dirty = s.dirty := rfl
@[simp] theorem memWrite_key : (s.memWrite a v).key = s.key := rfl
@[simp] theorem memWrite_waitActive : (s.memWrite a v).waitActive = s.waitActive := rfl
@[simp] theorem memWrite_waitPrev : (s.memWrite a v).waitPrev = s.waitPrev := rfl
@[simp] theorem memWrite_halted : (s.memWrite a v).halted = s.halted := rfl
@[simp] theorem memWrite_errKind : (s.memWrite a v).errKind = s.errKind := rfl
@[simp] theorem memWrite_errPc : (s.memWrite a v).errPc = s.errPc := rfl
@[simp] theorem memWrite_errWord : (s.memWrite a v).errWord = s.errWord := rfl
@[simp] theorem memWrite_tone : (s.memWrite a v).tone = s.tone := rfl
@[simp] theorem memWrite_tTotal : (s.memWrite a v).tTotal = s.tTotal := rfl
@[simp] theorem memWrite_instrDone : (s.memWrite a v).instrDone = s.instrDone := rfl
@[simp] theorem memWrite_timerDone : (s.memWrite a v).timerDone = s.timerDone := rfl
@[simp] theorem memWrite_draws : (s.memWrite a v).draws = s.draws := rfl
@[simp] theorem memWrite_params : (s.memWrite a v).params = s.params := rfl

end memWrite

section setV
variable (r : RegIdx) (v : Byte)

@[simp] theorem setV_mem : (s.setV r v).mem = s.mem := rfl
@[simp] theorem setV_V : (s.setV r v).V = s.V.set r.toNat v r.isLt := rfl
@[simp] theorem setV_I : (s.setV r v).I = s.I := rfl
@[simp] theorem setV_PC : (s.setV r v).PC = s.PC := rfl
@[simp] theorem setV_SP : (s.setV r v).SP = s.SP := rfl
@[simp] theorem setV_stack : (s.setV r v).stack = s.stack := rfl
@[simp] theorem setV_DT : (s.setV r v).DT = s.DT := rfl
@[simp] theorem setV_ST : (s.setV r v).ST = s.ST := rfl
@[simp] theorem setV_disp : (s.setV r v).disp = s.disp := rfl
@[simp] theorem setV_dirty : (s.setV r v).dirty = s.dirty := rfl
@[simp] theorem setV_key : (s.setV r v).key = s.key := rfl
@[simp] theorem setV_waitActive : (s.setV r v).waitActive = s.waitActive := rfl
@[simp] theorem setV_waitPrev : (s.setV r v).waitPrev = s.waitPrev := rfl
@[simp] theorem setV_halted : (s.setV r v).halted = s.halted := rfl
@[simp] theorem setV_errKind : (s.setV r v).errKind = s.errKind := rfl
@[simp] theorem setV_errPc : (s.setV r v).errPc = s.errPc := rfl
@[simp] theorem setV_errWord : (s.setV r v).errWord = s.errWord := rfl
@[simp] theorem setV_tone : (s.setV r v).tone = s.tone := rfl
@[simp] theorem setV_tTotal : (s.setV r v).tTotal = s.tTotal := rfl
@[simp] theorem setV_instrDone : (s.setV r v).instrDone = s.instrDone := rfl
@[simp] theorem setV_timerDone : (s.setV r v).timerDone = s.timerDone := rfl
@[simp] theorem setV_draws : (s.setV r v).draws = s.draws := rfl
@[simp] theorem setV_params : (s.setV r v).params = s.params := rfl

end setV

section setI
variable (a : Word)

@[simp] theorem setI_mem : (s.setI a).mem = s.mem := rfl
@[simp] theorem setI_V : (s.setI a).V = s.V := rfl
@[simp] theorem setI_I : (s.setI a).I = a := rfl
@[simp] theorem setI_PC : (s.setI a).PC = s.PC := rfl
@[simp] theorem setI_SP : (s.setI a).SP = s.SP := rfl
@[simp] theorem setI_stack : (s.setI a).stack = s.stack := rfl
@[simp] theorem setI_DT : (s.setI a).DT = s.DT := rfl
@[simp] theorem setI_ST : (s.setI a).ST = s.ST := rfl
@[simp] theorem setI_disp : (s.setI a).disp = s.disp := rfl
@[simp] theorem setI_dirty : (s.setI a).dirty = s.dirty := rfl
@[simp] theorem setI_key : (s.setI a).key = s.key := rfl
@[simp] theorem setI_waitActive : (s.setI a).waitActive = s.waitActive := rfl
@[simp] theorem setI_waitPrev : (s.setI a).waitPrev = s.waitPrev := rfl
@[simp] theorem setI_halted : (s.setI a).halted = s.halted := rfl
@[simp] theorem setI_errKind : (s.setI a).errKind = s.errKind := rfl
@[simp] theorem setI_errPc : (s.setI a).errPc = s.errPc := rfl
@[simp] theorem setI_errWord : (s.setI a).errWord = s.errWord := rfl
@[simp] theorem setI_tone : (s.setI a).tone = s.tone := rfl
@[simp] theorem setI_tTotal : (s.setI a).tTotal = s.tTotal := rfl
@[simp] theorem setI_instrDone : (s.setI a).instrDone = s.instrDone := rfl
@[simp] theorem setI_timerDone : (s.setI a).timerDone = s.timerDone := rfl
@[simp] theorem setI_draws : (s.setI a).draws = s.draws := rfl
@[simp] theorem setI_params : (s.setI a).params = s.params := rfl

end setI

section setDT
variable (v : Byte)

@[simp] theorem setDT_mem : (s.setDT v).mem = s.mem := rfl
@[simp] theorem setDT_V : (s.setDT v).V = s.V := rfl
@[simp] theorem setDT_I : (s.setDT v).I = s.I := rfl
@[simp] theorem setDT_PC : (s.setDT v).PC = s.PC := rfl
@[simp] theorem setDT_SP : (s.setDT v).SP = s.SP := rfl
@[simp] theorem setDT_stack : (s.setDT v).stack = s.stack := rfl
@[simp] theorem setDT_DT : (s.setDT v).DT = v := rfl
@[simp] theorem setDT_ST : (s.setDT v).ST = s.ST := rfl
@[simp] theorem setDT_disp : (s.setDT v).disp = s.disp := rfl
@[simp] theorem setDT_dirty : (s.setDT v).dirty = s.dirty := rfl
@[simp] theorem setDT_key : (s.setDT v).key = s.key := rfl
@[simp] theorem setDT_waitActive : (s.setDT v).waitActive = s.waitActive := rfl
@[simp] theorem setDT_waitPrev : (s.setDT v).waitPrev = s.waitPrev := rfl
@[simp] theorem setDT_halted : (s.setDT v).halted = s.halted := rfl
@[simp] theorem setDT_errKind : (s.setDT v).errKind = s.errKind := rfl
@[simp] theorem setDT_errPc : (s.setDT v).errPc = s.errPc := rfl
@[simp] theorem setDT_errWord : (s.setDT v).errWord = s.errWord := rfl
@[simp] theorem setDT_tone : (s.setDT v).tone = s.tone := rfl
@[simp] theorem setDT_tTotal : (s.setDT v).tTotal = s.tTotal := rfl
@[simp] theorem setDT_instrDone : (s.setDT v).instrDone = s.instrDone := rfl
@[simp] theorem setDT_timerDone : (s.setDT v).timerDone = s.timerDone := rfl
@[simp] theorem setDT_draws : (s.setDT v).draws = s.draws := rfl
@[simp] theorem setDT_params : (s.setDT v).params = s.params := rfl

end setDT

section setST
variable (v : Byte)

@[simp] theorem setST_mem : (s.setST v).mem = s.mem := rfl
@[simp] theorem setST_V : (s.setST v).V = s.V := rfl
@[simp] theorem setST_I : (s.setST v).I = s.I := rfl
@[simp] theorem setST_PC : (s.setST v).PC = s.PC := rfl
@[simp] theorem setST_SP : (s.setST v).SP = s.SP := rfl
@[simp] theorem setST_stack : (s.setST v).stack = s.stack := rfl
@[simp] theorem setST_DT : (s.setST v).DT = s.DT := rfl
@[simp] theorem setST_ST : (s.setST v).ST = v := rfl
@[simp] theorem setST_disp : (s.setST v).disp = s.disp := rfl
@[simp] theorem setST_dirty : (s.setST v).dirty = s.dirty := rfl
@[simp] theorem setST_key : (s.setST v).key = s.key := rfl
@[simp] theorem setST_waitActive : (s.setST v).waitActive = s.waitActive := rfl
@[simp] theorem setST_waitPrev : (s.setST v).waitPrev = s.waitPrev := rfl
@[simp] theorem setST_halted : (s.setST v).halted = s.halted := rfl
@[simp] theorem setST_errKind : (s.setST v).errKind = s.errKind := rfl
@[simp] theorem setST_errPc : (s.setST v).errPc = s.errPc := rfl
@[simp] theorem setST_errWord : (s.setST v).errWord = s.errWord := rfl
@[simp] theorem setST_tone : (s.setST v).tone = s.tone := rfl
@[simp] theorem setST_tTotal : (s.setST v).tTotal = s.tTotal := rfl
@[simp] theorem setST_instrDone : (s.setST v).instrDone = s.instrDone := rfl
@[simp] theorem setST_timerDone : (s.setST v).timerDone = s.timerDone := rfl
@[simp] theorem setST_draws : (s.setST v).draws = s.draws := rfl
@[simp] theorem setST_params : (s.setST v).params = s.params := rfl

end setST

section setPc
variable (a : Word)

@[simp] theorem setPc_mem : (s.setPc a).mem = s.mem := rfl
@[simp] theorem setPc_V : (s.setPc a).V = s.V := rfl
@[simp] theorem setPc_I : (s.setPc a).I = s.I := rfl
@[simp] theorem setPc_PC : (s.setPc a).PC = mask12 a := rfl
@[simp] theorem setPc_SP : (s.setPc a).SP = s.SP := rfl
@[simp] theorem setPc_stack : (s.setPc a).stack = s.stack := rfl
@[simp] theorem setPc_DT : (s.setPc a).DT = s.DT := rfl
@[simp] theorem setPc_ST : (s.setPc a).ST = s.ST := rfl
@[simp] theorem setPc_disp : (s.setPc a).disp = s.disp := rfl
@[simp] theorem setPc_dirty : (s.setPc a).dirty = s.dirty := rfl
@[simp] theorem setPc_key : (s.setPc a).key = s.key := rfl
@[simp] theorem setPc_waitActive : (s.setPc a).waitActive = s.waitActive := rfl
@[simp] theorem setPc_waitPrev : (s.setPc a).waitPrev = s.waitPrev := rfl
@[simp] theorem setPc_halted : (s.setPc a).halted = s.halted := rfl
@[simp] theorem setPc_errKind : (s.setPc a).errKind = s.errKind := rfl
@[simp] theorem setPc_errPc : (s.setPc a).errPc = s.errPc := rfl
@[simp] theorem setPc_errWord : (s.setPc a).errWord = s.errWord := rfl
@[simp] theorem setPc_tone : (s.setPc a).tone = s.tone := rfl
@[simp] theorem setPc_tTotal : (s.setPc a).tTotal = s.tTotal := rfl
@[simp] theorem setPc_instrDone : (s.setPc a).instrDone = s.instrDone := rfl
@[simp] theorem setPc_timerDone : (s.setPc a).timerDone = s.timerDone := rfl
@[simp] theorem setPc_draws : (s.setPc a).draws = s.draws := rfl
@[simp] theorem setPc_params : (s.setPc a).params = s.params := rfl

end setPc

section advance

@[simp] theorem advance_mem : s.advance.mem = s.mem := rfl
@[simp] theorem advance_V : s.advance.V = s.V := rfl
@[simp] theorem advance_I : s.advance.I = s.I := rfl
@[simp] theorem advance_PC : s.advance.PC = s.pcNext := rfl
@[simp] theorem advance_SP : s.advance.SP = s.SP := rfl
@[simp] theorem advance_stack : s.advance.stack = s.stack := rfl
@[simp] theorem advance_DT : s.advance.DT = s.DT := rfl
@[simp] theorem advance_ST : s.advance.ST = s.ST := rfl
@[simp] theorem advance_disp : s.advance.disp = s.disp := rfl
@[simp] theorem advance_dirty : s.advance.dirty = s.dirty := rfl
@[simp] theorem advance_key : s.advance.key = s.key := rfl
@[simp] theorem advance_waitActive : s.advance.waitActive = s.waitActive := rfl
@[simp] theorem advance_waitPrev : s.advance.waitPrev = s.waitPrev := rfl
@[simp] theorem advance_halted : s.advance.halted = s.halted := rfl
@[simp] theorem advance_errKind : s.advance.errKind = s.errKind := rfl
@[simp] theorem advance_errPc : s.advance.errPc = s.errPc := rfl
@[simp] theorem advance_errWord : s.advance.errWord = s.errWord := rfl
@[simp] theorem advance_tone : s.advance.tone = s.tone := rfl
@[simp] theorem advance_tTotal : s.advance.tTotal = s.tTotal := rfl
@[simp] theorem advance_instrDone : s.advance.instrDone = s.instrDone := rfl
@[simp] theorem advance_timerDone : s.advance.timerDone = s.timerDone := rfl
@[simp] theorem advance_draws : s.advance.draws = s.draws := rfl
@[simp] theorem advance_params : s.advance.params = s.params := rfl

end advance

section skipIf
variable (c : Bool)

@[simp] theorem skipIf_mem : (s.skipIf c).mem = s.mem := by cases c <;> rfl
@[simp] theorem skipIf_V : (s.skipIf c).V = s.V := by cases c <;> rfl
@[simp] theorem skipIf_I : (s.skipIf c).I = s.I := by cases c <;> rfl
@[simp] theorem skipIf_PC : (s.skipIf c).PC = if c then mask12 (s.PC + 4#16) else s.pcNext := by cases c <;> rfl
@[simp] theorem skipIf_SP : (s.skipIf c).SP = s.SP := by cases c <;> rfl
@[simp] theorem skipIf_stack : (s.skipIf c).stack = s.stack := by cases c <;> rfl
@[simp] theorem skipIf_DT : (s.skipIf c).DT = s.DT := by cases c <;> rfl
@[simp] theorem skipIf_ST : (s.skipIf c).ST = s.ST := by cases c <;> rfl
@[simp] theorem skipIf_disp : (s.skipIf c).disp = s.disp := by cases c <;> rfl
@[simp] theorem skipIf_dirty : (s.skipIf c).dirty = s.dirty := by cases c <;> rfl
@[simp] theorem skipIf_key : (s.skipIf c).key = s.key := by cases c <;> rfl
@[simp] theorem skipIf_waitActive : (s.skipIf c).waitActive = s.waitActive := by cases c <;> rfl
@[simp] theorem skipIf_waitPrev : (s.skipIf c).waitPrev = s.waitPrev := by cases c <;> rfl
@[simp] theorem skipIf_halted : (s.skipIf c).halted = s.halted := by cases c <;> rfl
@[simp] theorem skipIf_errKind : (s.skipIf c).errKind = s.errKind := by cases c <;> rfl
@[simp] theorem skipIf_errPc : (s.skipIf c).errPc = s.errPc := by cases c <;> rfl
@[simp] theorem skipIf_errWord : (s.skipIf c).errWord = s.errWord := by cases c <;> rfl
@[simp] theorem skipIf_tone : (s.skipIf c).tone = s.tone := by cases c <;> rfl
@[simp] theorem skipIf_tTotal : (s.skipIf c).tTotal = s.tTotal := by cases c <;> rfl
@[simp] theorem skipIf_instrDone : (s.skipIf c).instrDone = s.instrDone := by cases c <;> rfl
@[simp] theorem skipIf_timerDone : (s.skipIf c).timerDone = s.timerDone := by cases c <;> rfl
@[simp] theorem skipIf_draws : (s.skipIf c).draws = s.draws := by cases c <;> rfl
@[simp] theorem skipIf_params : (s.skipIf c).params = s.params := by cases c <;> rfl

end skipIf

section pushReturn
variable (h : s.SP.val ≠ 16)

@[simp] theorem pushReturn_mem : (s.pushReturn h).mem = s.mem := rfl
@[simp] theorem pushReturn_V : (s.pushReturn h).V = s.V := rfl
@[simp] theorem pushReturn_I : (s.pushReturn h).I = s.I := rfl
@[simp] theorem pushReturn_PC : (s.pushReturn h).PC = s.PC := rfl
@[simp] theorem pushReturn_SP : (s.pushReturn h).SP = ⟨s.SP.val + 1, by omega⟩ := rfl
@[simp] theorem pushReturn_stack : (s.pushReturn h).stack = s.stack.set s.SP.val s.pcNext (by omega) := rfl
@[simp] theorem pushReturn_DT : (s.pushReturn h).DT = s.DT := rfl
@[simp] theorem pushReturn_ST : (s.pushReturn h).ST = s.ST := rfl
@[simp] theorem pushReturn_disp : (s.pushReturn h).disp = s.disp := rfl
@[simp] theorem pushReturn_dirty : (s.pushReturn h).dirty = s.dirty := rfl
@[simp] theorem pushReturn_key : (s.pushReturn h).key = s.key := rfl
@[simp] theorem pushReturn_waitActive : (s.pushReturn h).waitActive = s.waitActive := rfl
@[simp] theorem pushReturn_waitPrev : (s.pushReturn h).waitPrev = s.waitPrev := rfl
@[simp] theorem pushReturn_halted : (s.pushReturn h).halted = s.halted := rfl
@[simp] theorem pushReturn_errKind : (s.pushReturn h).errKind = s.errKind := rfl
@[simp] theorem pushReturn_errPc : (s.pushReturn h).errPc = s.errPc := rfl
@[simp] theorem pushReturn_errWord : (s.pushReturn h).errWord = s.errWord := rfl
@[simp] theorem pushReturn_tone : (s.pushReturn h).tone = s.tone := rfl
@[simp] theorem pushReturn_tTotal : (s.pushReturn h).tTotal = s.tTotal := rfl
@[simp] theorem pushReturn_instrDone : (s.pushReturn h).instrDone = s.instrDone := rfl
@[simp] theorem pushReturn_timerDone : (s.pushReturn h).timerDone = s.timerDone := rfl
@[simp] theorem pushReturn_draws : (s.pushReturn h).draws = s.draws := rfl
@[simp] theorem pushReturn_params : (s.pushReturn h).params = s.params := rfl

end pushReturn

section popReturn

@[simp] theorem popReturn_mem : s.popReturn.mem = s.mem := rfl
@[simp] theorem popReturn_V : s.popReturn.V = s.V := rfl
@[simp] theorem popReturn_I : s.popReturn.I = s.I := rfl
@[simp] theorem popReturn_PC : s.popReturn.PC = mask12 (s.stack[s.SP.val - 1]'(by omega)) := rfl
@[simp] theorem popReturn_SP : s.popReturn.SP = ⟨s.SP.val - 1, by omega⟩ := rfl
@[simp] theorem popReturn_stack : s.popReturn.stack = s.stack := rfl
@[simp] theorem popReturn_DT : s.popReturn.DT = s.DT := rfl
@[simp] theorem popReturn_ST : s.popReturn.ST = s.ST := rfl
@[simp] theorem popReturn_disp : s.popReturn.disp = s.disp := rfl
@[simp] theorem popReturn_dirty : s.popReturn.dirty = s.dirty := rfl
@[simp] theorem popReturn_key : s.popReturn.key = s.key := rfl
@[simp] theorem popReturn_waitActive : s.popReturn.waitActive = s.waitActive := rfl
@[simp] theorem popReturn_waitPrev : s.popReturn.waitPrev = s.waitPrev := rfl
@[simp] theorem popReturn_halted : s.popReturn.halted = s.halted := rfl
@[simp] theorem popReturn_errKind : s.popReturn.errKind = s.errKind := rfl
@[simp] theorem popReturn_errPc : s.popReturn.errPc = s.errPc := rfl
@[simp] theorem popReturn_errWord : s.popReturn.errWord = s.errWord := rfl
@[simp] theorem popReturn_tone : s.popReturn.tone = s.tone := rfl
@[simp] theorem popReturn_tTotal : s.popReturn.tTotal = s.tTotal := rfl
@[simp] theorem popReturn_instrDone : s.popReturn.instrDone = s.instrDone := rfl
@[simp] theorem popReturn_timerDone : s.popReturn.timerDone = s.timerDone := rfl
@[simp] theorem popReturn_draws : s.popReturn.draws = s.draws := rfl
@[simp] theorem popReturn_params : s.popReturn.params = s.params := rfl

end popReturn

section raise
variable (k : ErrKind) (w : Word)

@[simp] theorem raise_mem : (s.raise k w).mem = s.mem := rfl
@[simp] theorem raise_V : (s.raise k w).V = s.V := rfl
@[simp] theorem raise_I : (s.raise k w).I = s.I := rfl
@[simp] theorem raise_PC : (s.raise k w).PC = s.PC := rfl
@[simp] theorem raise_SP : (s.raise k w).SP = s.SP := rfl
@[simp] theorem raise_stack : (s.raise k w).stack = s.stack := rfl
@[simp] theorem raise_DT : (s.raise k w).DT = s.DT := rfl
@[simp] theorem raise_ST : (s.raise k w).ST = s.ST := rfl
@[simp] theorem raise_disp : (s.raise k w).disp = s.disp := rfl
@[simp] theorem raise_dirty : (s.raise k w).dirty = s.dirty := rfl
@[simp] theorem raise_key : (s.raise k w).key = s.key := rfl
@[simp] theorem raise_waitActive : (s.raise k w).waitActive = s.waitActive := rfl
@[simp] theorem raise_waitPrev : (s.raise k w).waitPrev = s.waitPrev := rfl
@[simp] theorem raise_halted : (s.raise k w).halted = true := rfl
@[simp] theorem raise_errKind : (s.raise k w).errKind = k := rfl
@[simp] theorem raise_errPc : (s.raise k w).errPc = s.PC := rfl
@[simp] theorem raise_errWord : (s.raise k w).errWord = w := rfl
@[simp] theorem raise_tone : (s.raise k w).tone = s.tone := rfl
@[simp] theorem raise_tTotal : (s.raise k w).tTotal = s.tTotal := rfl
@[simp] theorem raise_instrDone : (s.raise k w).instrDone = s.instrDone := rfl
@[simp] theorem raise_timerDone : (s.raise k w).timerDone = s.timerDone := rfl
@[simp] theorem raise_draws : (s.raise k w).draws = s.draws := rfl
@[simp] theorem raise_params : (s.raise k w).params = s.params := rfl

end raise

section setResultAndFlag
variable (x : RegIdx) (v : Byte) (c : Bool)

@[simp] theorem setResultAndFlag_mem : (s.setResultAndFlag x v c).mem = s.mem := rfl
@[simp] theorem setResultAndFlag_V : (s.setResultAndFlag x v c).V = ((s.setV x v).setV vf (flagByte c)).V := rfl
@[simp] theorem setResultAndFlag_I : (s.setResultAndFlag x v c).I = s.I := rfl
@[simp] theorem setResultAndFlag_PC : (s.setResultAndFlag x v c).PC = s.PC := rfl
@[simp] theorem setResultAndFlag_SP : (s.setResultAndFlag x v c).SP = s.SP := rfl
@[simp] theorem setResultAndFlag_stack : (s.setResultAndFlag x v c).stack = s.stack := rfl
@[simp] theorem setResultAndFlag_DT : (s.setResultAndFlag x v c).DT = s.DT := rfl
@[simp] theorem setResultAndFlag_ST : (s.setResultAndFlag x v c).ST = s.ST := rfl
@[simp] theorem setResultAndFlag_disp : (s.setResultAndFlag x v c).disp = s.disp := rfl
@[simp] theorem setResultAndFlag_dirty : (s.setResultAndFlag x v c).dirty = s.dirty := rfl
@[simp] theorem setResultAndFlag_key : (s.setResultAndFlag x v c).key = s.key := rfl
@[simp] theorem setResultAndFlag_waitActive : (s.setResultAndFlag x v c).waitActive = s.waitActive := rfl
@[simp] theorem setResultAndFlag_waitPrev : (s.setResultAndFlag x v c).waitPrev = s.waitPrev := rfl
@[simp] theorem setResultAndFlag_halted : (s.setResultAndFlag x v c).halted = s.halted := rfl
@[simp] theorem setResultAndFlag_errKind : (s.setResultAndFlag x v c).errKind = s.errKind := rfl
@[simp] theorem setResultAndFlag_errPc : (s.setResultAndFlag x v c).errPc = s.errPc := rfl
@[simp] theorem setResultAndFlag_errWord : (s.setResultAndFlag x v c).errWord = s.errWord := rfl
@[simp] theorem setResultAndFlag_tone : (s.setResultAndFlag x v c).tone = s.tone := rfl
@[simp] theorem setResultAndFlag_tTotal : (s.setResultAndFlag x v c).tTotal = s.tTotal := rfl
@[simp] theorem setResultAndFlag_instrDone : (s.setResultAndFlag x v c).instrDone = s.instrDone := rfl
@[simp] theorem setResultAndFlag_timerDone : (s.setResultAndFlag x v c).timerDone = s.timerDone := rfl
@[simp] theorem setResultAndFlag_draws : (s.setResultAndFlag x v c).draws = s.draws := rfl
@[simp] theorem setResultAndFlag_params : (s.setResultAndFlag x v c).params = s.params := rfl

end setResultAndFlag

section indexWrite
variable (r : Nat) (v : Byte)

@[simp] theorem indexWrite_mem : (s.indexWrite r v).mem = Memory.write s.params.font (s.indexAddr r % 4096) v s.mem := rfl
@[simp] theorem indexWrite_V : (s.indexWrite r v).V = s.V := rfl
@[simp] theorem indexWrite_I : (s.indexWrite r v).I = s.I := rfl
@[simp] theorem indexWrite_PC : (s.indexWrite r v).PC = s.PC := rfl
@[simp] theorem indexWrite_SP : (s.indexWrite r v).SP = s.SP := rfl
@[simp] theorem indexWrite_stack : (s.indexWrite r v).stack = s.stack := rfl
@[simp] theorem indexWrite_DT : (s.indexWrite r v).DT = s.DT := rfl
@[simp] theorem indexWrite_ST : (s.indexWrite r v).ST = s.ST := rfl
@[simp] theorem indexWrite_disp : (s.indexWrite r v).disp = s.disp := rfl
@[simp] theorem indexWrite_dirty : (s.indexWrite r v).dirty = s.dirty := rfl
@[simp] theorem indexWrite_key : (s.indexWrite r v).key = s.key := rfl
@[simp] theorem indexWrite_waitActive : (s.indexWrite r v).waitActive = s.waitActive := rfl
@[simp] theorem indexWrite_waitPrev : (s.indexWrite r v).waitPrev = s.waitPrev := rfl
@[simp] theorem indexWrite_halted : (s.indexWrite r v).halted = s.halted := rfl
@[simp] theorem indexWrite_errKind : (s.indexWrite r v).errKind = s.errKind := rfl
@[simp] theorem indexWrite_errPc : (s.indexWrite r v).errPc = s.errPc := rfl
@[simp] theorem indexWrite_errWord : (s.indexWrite r v).errWord = s.errWord := rfl
@[simp] theorem indexWrite_tone : (s.indexWrite r v).tone = s.tone := rfl
@[simp] theorem indexWrite_tTotal : (s.indexWrite r v).tTotal = s.tTotal := rfl
@[simp] theorem indexWrite_instrDone : (s.indexWrite r v).instrDone = s.instrDone := rfl
@[simp] theorem indexWrite_timerDone : (s.indexWrite r v).timerDone = s.timerDone := rfl
@[simp] theorem indexWrite_draws : (s.indexWrite r v).draws = s.draws := rfl
@[simp] theorem indexWrite_params : (s.indexWrite r v).params = s.params := rfl

end indexWrite

section takeDraw

@[simp] theorem takeDraw_mem : s.takeDraw.mem = s.mem := rfl
@[simp] theorem takeDraw_V : s.takeDraw.V = s.V := rfl
@[simp] theorem takeDraw_I : s.takeDraw.I = s.I := rfl
@[simp] theorem takeDraw_PC : s.takeDraw.PC = s.PC := rfl
@[simp] theorem takeDraw_SP : s.takeDraw.SP = s.SP := rfl
@[simp] theorem takeDraw_stack : s.takeDraw.stack = s.stack := rfl
@[simp] theorem takeDraw_DT : s.takeDraw.DT = s.DT := rfl
@[simp] theorem takeDraw_ST : s.takeDraw.ST = s.ST := rfl
@[simp] theorem takeDraw_disp : s.takeDraw.disp = s.disp := rfl
@[simp] theorem takeDraw_dirty : s.takeDraw.dirty = s.dirty := rfl
@[simp] theorem takeDraw_key : s.takeDraw.key = s.key := rfl
@[simp] theorem takeDraw_waitActive : s.takeDraw.waitActive = s.waitActive := rfl
@[simp] theorem takeDraw_waitPrev : s.takeDraw.waitPrev = s.waitPrev := rfl
@[simp] theorem takeDraw_halted : s.takeDraw.halted = s.halted := rfl
@[simp] theorem takeDraw_errKind : s.takeDraw.errKind = s.errKind := rfl
@[simp] theorem takeDraw_errPc : s.takeDraw.errPc = s.errPc := rfl
@[simp] theorem takeDraw_errWord : s.takeDraw.errWord = s.errWord := rfl
@[simp] theorem takeDraw_tone : s.takeDraw.tone = s.tone := rfl
@[simp] theorem takeDraw_tTotal : s.takeDraw.tTotal = s.tTotal := rfl
@[simp] theorem takeDraw_instrDone : s.takeDraw.instrDone = s.instrDone := rfl
@[simp] theorem takeDraw_timerDone : s.takeDraw.timerDone = s.timerDone := rfl
@[simp] theorem takeDraw_draws : s.takeDraw.draws = s.draws + 1 := rfl
@[simp] theorem takeDraw_params : s.takeDraw.params = s.params := rfl

end takeDraw

section beginWait

@[simp] theorem beginWait_mem : s.beginWait.mem = s.mem := rfl
@[simp] theorem beginWait_V : s.beginWait.V = s.V := rfl
@[simp] theorem beginWait_I : s.beginWait.I = s.I := rfl
@[simp] theorem beginWait_PC : s.beginWait.PC = s.PC := rfl
@[simp] theorem beginWait_SP : s.beginWait.SP = s.SP := rfl
@[simp] theorem beginWait_stack : s.beginWait.stack = s.stack := rfl
@[simp] theorem beginWait_DT : s.beginWait.DT = s.DT := rfl
@[simp] theorem beginWait_ST : s.beginWait.ST = s.ST := rfl
@[simp] theorem beginWait_disp : s.beginWait.disp = s.disp := rfl
@[simp] theorem beginWait_dirty : s.beginWait.dirty = s.dirty := rfl
@[simp] theorem beginWait_key : s.beginWait.key = s.key := rfl
@[simp] theorem beginWait_waitActive : s.beginWait.waitActive = true := rfl
@[simp] theorem beginWait_waitPrev : s.beginWait.waitPrev = s.key := rfl
@[simp] theorem beginWait_halted : s.beginWait.halted = s.halted := rfl
@[simp] theorem beginWait_errKind : s.beginWait.errKind = s.errKind := rfl
@[simp] theorem beginWait_errPc : s.beginWait.errPc = s.errPc := rfl
@[simp] theorem beginWait_errWord : s.beginWait.errWord = s.errWord := rfl
@[simp] theorem beginWait_tone : s.beginWait.tone = s.tone := rfl
@[simp] theorem beginWait_tTotal : s.beginWait.tTotal = s.tTotal := rfl
@[simp] theorem beginWait_instrDone : s.beginWait.instrDone = s.instrDone := rfl
@[simp] theorem beginWait_timerDone : s.beginWait.timerDone = s.timerDone := rfl
@[simp] theorem beginWait_draws : s.beginWait.draws = s.draws := rfl
@[simp] theorem beginWait_params : s.beginWait.params = s.params := rfl

end beginWait

section pollWait

@[simp] theorem pollWait_mem : s.pollWait.mem = s.mem := rfl
@[simp] theorem pollWait_V : s.pollWait.V = s.V := rfl
@[simp] theorem pollWait_I : s.pollWait.I = s.I := rfl
@[simp] theorem pollWait_PC : s.pollWait.PC = s.PC := rfl
@[simp] theorem pollWait_SP : s.pollWait.SP = s.SP := rfl
@[simp] theorem pollWait_stack : s.pollWait.stack = s.stack := rfl
@[simp] theorem pollWait_DT : s.pollWait.DT = s.DT := rfl
@[simp] theorem pollWait_ST : s.pollWait.ST = s.ST := rfl
@[simp] theorem pollWait_disp : s.pollWait.disp = s.disp := rfl
@[simp] theorem pollWait_dirty : s.pollWait.dirty = s.dirty := rfl
@[simp] theorem pollWait_key : s.pollWait.key = s.key := rfl
@[simp] theorem pollWait_waitActive : s.pollWait.waitActive = s.waitActive := rfl
@[simp] theorem pollWait_waitPrev : s.pollWait.waitPrev = s.key := rfl
@[simp] theorem pollWait_halted : s.pollWait.halted = s.halted := rfl
@[simp] theorem pollWait_errKind : s.pollWait.errKind = s.errKind := rfl
@[simp] theorem pollWait_errPc : s.pollWait.errPc = s.errPc := rfl
@[simp] theorem pollWait_errWord : s.pollWait.errWord = s.errWord := rfl
@[simp] theorem pollWait_tone : s.pollWait.tone = s.tone := rfl
@[simp] theorem pollWait_tTotal : s.pollWait.tTotal = s.tTotal := rfl
@[simp] theorem pollWait_instrDone : s.pollWait.instrDone = s.instrDone := rfl
@[simp] theorem pollWait_timerDone : s.pollWait.timerDone = s.timerDone := rfl
@[simp] theorem pollWait_draws : s.pollWait.draws = s.draws := rfl
@[simp] theorem pollWait_params : s.pollWait.params = s.params := rfl

end pollWait

section endWait

@[simp] theorem endWait_mem : s.endWait.mem = s.mem := rfl
@[simp] theorem endWait_V : s.endWait.V = s.V := rfl
@[simp] theorem endWait_I : s.endWait.I = s.I := rfl
@[simp] theorem endWait_PC : s.endWait.PC = s.PC := rfl
@[simp] theorem endWait_SP : s.endWait.SP = s.SP := rfl
@[simp] theorem endWait_stack : s.endWait.stack = s.stack := rfl
@[simp] theorem endWait_DT : s.endWait.DT = s.DT := rfl
@[simp] theorem endWait_ST : s.endWait.ST = s.ST := rfl
@[simp] theorem endWait_disp : s.endWait.disp = s.disp := rfl
@[simp] theorem endWait_dirty : s.endWait.dirty = s.dirty := rfl
@[simp] theorem endWait_key : s.endWait.key = s.key := rfl
@[simp] theorem endWait_waitActive : s.endWait.waitActive = false := rfl
@[simp] theorem endWait_waitPrev : s.endWait.waitPrev = noKeys := rfl
@[simp] theorem endWait_halted : s.endWait.halted = s.halted := rfl
@[simp] theorem endWait_errKind : s.endWait.errKind = s.errKind := rfl
@[simp] theorem endWait_errPc : s.endWait.errPc = s.errPc := rfl
@[simp] theorem endWait_errWord : s.endWait.errWord = s.errWord := rfl
@[simp] theorem endWait_tone : s.endWait.tone = s.tone := rfl
@[simp] theorem endWait_tTotal : s.endWait.tTotal = s.tTotal := rfl
@[simp] theorem endWait_instrDone : s.endWait.instrDone = s.instrDone := rfl
@[simp] theorem endWait_timerDone : s.endWait.timerDone = s.timerDone := rfl
@[simp] theorem endWait_draws : s.endWait.draws = s.draws := rfl
@[simp] theorem endWait_params : s.endWait.params = s.params := rfl

end endWait

section timerTick

@[simp] theorem timerTick_mem : s.timerTick.mem = s.mem := rfl
@[simp] theorem timerTick_V : s.timerTick.V = s.V := rfl
@[simp] theorem timerTick_I : s.timerTick.I = s.I := rfl
@[simp] theorem timerTick_PC : s.timerTick.PC = s.PC := rfl
@[simp] theorem timerTick_SP : s.timerTick.SP = s.SP := rfl
@[simp] theorem timerTick_stack : s.timerTick.stack = s.stack := rfl
@[simp] theorem timerTick_DT : s.timerTick.DT = countDown s.DT := rfl
@[simp] theorem timerTick_ST : s.timerTick.ST = countDown s.ST := rfl
@[simp] theorem timerTick_disp : s.timerTick.disp = s.disp := rfl
@[simp] theorem timerTick_dirty : s.timerTick.dirty = s.dirty := rfl
@[simp] theorem timerTick_key : s.timerTick.key = s.key := rfl
@[simp] theorem timerTick_waitActive : s.timerTick.waitActive = s.waitActive := rfl
@[simp] theorem timerTick_waitPrev : s.timerTick.waitPrev = s.waitPrev := rfl
@[simp] theorem timerTick_halted : s.timerTick.halted = s.halted := rfl
@[simp] theorem timerTick_errKind : s.timerTick.errKind = s.errKind := rfl
@[simp] theorem timerTick_errPc : s.timerTick.errPc = s.errPc := rfl
@[simp] theorem timerTick_errWord : s.timerTick.errWord = s.errWord := rfl
@[simp] theorem timerTick_tone : s.timerTick.tone = (countDown s.ST != 0#8) := rfl
@[simp] theorem timerTick_tTotal : s.timerTick.tTotal = s.tTotal := rfl
@[simp] theorem timerTick_instrDone : s.timerTick.instrDone = s.instrDone := rfl
@[simp] theorem timerTick_timerDone : s.timerTick.timerDone = s.timerDone := rfl
@[simp] theorem timerTick_draws : s.timerTick.draws = s.draws := rfl
@[simp] theorem timerTick_params : s.timerTick.params = s.params := rfl

end timerTick

end Sys2Proof.Machine.State
end

