-- ==== Sys2Proof/Laws/Ops.lean ====
section
/-! SUPPORT. What each shared operation does: one lemma for each, cited instead of unfolding it. -/

namespace Sys2Proof.Machine.State

/-! ### Registers and memory bytes under the named updates -/

/-- The written register holds the value, every other register its old one. -/
@[simp] theorem getV_setV (s : State) (r : RegIdx) (v : Byte) (q : RegIdx) :
    (s.setV r v).getV q = if q = r then v else s.getV q := by
  by_cases h : q = r
  · subst h; simp [getV, setV]
  · have h' : r.toNat ≠ q.toNat := fun e => h (BitVec.eq_of_toNat_eq e.symm)
    simp [getV, setV, h, h']

@[simp] theorem memRead_setV (s : State) (r : RegIdx) (v : Byte) (k : Nat) : (s.setV r v).memRead k = s.memRead k := rfl
@[simp] theorem getV_setI (s : State) (a : Word) (q : RegIdx) : (s.setI a).getV q = s.getV q := rfl
@[simp] theorem memRead_setI (s : State) (a : Word) (k : Nat) : (s.setI a).memRead k = s.memRead k := rfl
@[simp] theorem getV_setDT (s : State) (v : Byte) (q : RegIdx) : (s.setDT v).getV q = s.getV q := rfl
@[simp] theorem memRead_setDT (s : State) (v : Byte) (k : Nat) : (s.setDT v).memRead k = s.memRead k := rfl
@[simp] theorem getV_setST (s : State) (v : Byte) (q : RegIdx) : (s.setST v).getV q = s.getV q := rfl
@[simp] theorem memRead_setST (s : State) (v : Byte) (k : Nat) : (s.setST v).memRead k = s.memRead k := rfl
@[simp] theorem getV_setPc (s : State) (a : Word) (q : RegIdx) : (s.setPc a).getV q = s.getV q := rfl
@[simp] theorem memRead_setPc (s : State) (a : Word) (k : Nat) : (s.setPc a).memRead k = s.memRead k := rfl
@[simp] theorem getV_advance (s : State) (q : RegIdx) : s.advance.getV q = s.getV q := rfl
@[simp] theorem memRead_advance (s : State) (k : Nat) : s.advance.memRead k = s.memRead k := rfl
@[simp] theorem getV_skipIf (s : State) (c : Bool) (q : RegIdx) : (s.skipIf c).getV q = s.getV q := by cases c <;> rfl
@[simp] theorem memRead_skipIf (s : State) (c : Bool) (k : Nat) : (s.skipIf c).memRead k = s.memRead k := by cases c <;> rfl
@[simp] theorem getV_pushReturn (s : State) (h : s.SP.val ≠ 16) (q : RegIdx) : (s.pushReturn h).getV q = s.getV q := rfl
@[simp] theorem memRead_pushReturn (s : State) (h : s.SP.val ≠ 16) (k : Nat) : (s.pushReturn h).memRead k = s.memRead k := rfl
@[simp] theorem getV_popReturn (s : State) (q : RegIdx) : s.popReturn.getV q = s.getV q := rfl
@[simp] theorem memRead_popReturn (s : State) (k : Nat) : s.popReturn.memRead k = s.memRead k := rfl
@[simp] theorem getV_raise (s : State) (k : ErrKind) (w : Word) (q : RegIdx) : (s.raise k w).getV q = s.getV q := rfl
@[simp] theorem memRead_raise (s : State) (k : ErrKind) (w : Word) (a : Nat) : (s.raise k w).memRead a = s.memRead a := rfl
@[simp] theorem getV_takeDraw (s : State) (q : RegIdx) : s.takeDraw.getV q = s.getV q := rfl
@[simp] theorem memRead_takeDraw (s : State) (k : Nat) : s.takeDraw.memRead k = s.memRead k := rfl
@[simp] theorem getV_beginWait (s : State) (q : RegIdx) : s.beginWait.getV q = s.getV q := rfl
@[simp] theorem memRead_beginWait (s : State) (k : Nat) : s.beginWait.memRead k = s.memRead k := rfl
@[simp] theorem getV_pollWait (s : State) (q : RegIdx) : s.pollWait.getV q = s.getV q := rfl
@[simp] theorem memRead_pollWait (s : State) (k : Nat) : s.pollWait.memRead k = s.memRead k := rfl
@[simp] theorem getV_endWait (s : State) (q : RegIdx) : s.endWait.getV q = s.getV q := rfl
@[simp] theorem memRead_endWait (s : State) (k : Nat) : s.endWait.memRead k = s.memRead k := rfl
@[simp] theorem getV_timerTick (s : State) (q : RegIdx) : s.timerTick.getV q = s.getV q := rfl
@[simp] theorem memRead_timerTick (s : State) (k : Nat) : s.timerTick.memRead k = s.memRead k := rfl
@[simp] theorem getV_memWrite (s : State) (a : Nat) (v : Byte) (q : RegIdx) : (s.memWrite a v).getV q = s.getV q := rfl

/-- The registers are equal where every read of one is (10_state.md R21). -/
theorem V_ext {s t : State} (h : ∀ r, s.getV r = t.getV r) : s.V = t.V := by
  refine Vector.ext fun i hi => ?_
  have := h (BitVec.ofNat 4 i)
  simpa [getV, Nat.mod_eq_of_lt hi] using this

/-- R53: the byte written is read back at its address mod 4096, and every other byte is as before. -/
theorem memRead_memWrite {s : State} (hm : Memory.wf s.params.font s.mem) (a : Nat) (v : Byte) (k : Nat) :
    (s.memWrite a v).memRead k = if k % 4096 = a % 4096 then v else s.memRead k :=
  Memory.read_write hm _ _ _

/-- A write keeps the canonical form. -/
theorem memWrite_wf {s : State} (hm : Memory.wf s.params.font s.mem) (a : Nat) (v : Byte) :
    Memory.wf (s.memWrite a v).params.font (s.memWrite a v).mem :=
  Memory.wf_write hm (Nat.mod_lt _ (by decide)) v

@[simp] theorem memRead_mod (s : State) (a : Nat) : s.memRead (a % 4096) = s.memRead a := by
  simp [memRead]

/-! ### The program counter -/

end Sys2Proof.Machine.State

namespace Sys2Proof.Machine

@[simp] theorem mask12_toNat (a : Word) : (mask12 a).toNat = a.toNat % 4096 := by
  have h := Nat.and_two_pow_sub_one_eq_mod a.toNat 12
  simpa [mask12] using h

end Sys2Proof.Machine

namespace Sys2Proof.Machine.State

/-- R12, R25: PCnext is PC + 2, wrapping at 4096. -/
@[simp] theorem pcNext_toNat (s : State) : s.pcNext.toNat = (s.PC.toNat + 2) % 4096 := by
  simp only [pcNext, mask12_toNat, BitVec.toNat_add, BitVec.toNat_ofNat]
  omega

theorem mask12_pc_toNat (s : State) (k : Nat) :
    (mask12 (s.PC + BitVec.ofNat 16 k)).toNat = (s.PC.toNat + k) % 4096 := by
  simp only [mask12_toNat, BitVec.toNat_add, BitVec.toNat_ofNat]
  omega

/-- R25: a skip advances PC by 4 where the condition holds and by 2 where it does not. -/
theorem skipIf_pc (s : State) (c : Bool) : pcAdvanced (if c then 4 else 2) s (s.skipIf c) := by
  cases c
  · exact pcNext_toNat s
  · exact mask12_pc_toNat s 4

theorem advance_pc (s : State) : pcAdvanced 2 s s.advance := pcNext_toNat s

/-! ### Operands, flags and fatal conditions -/

/-- R121: VF ends holding the flag, `V[x]` the result unless x = F, every other register is as before. -/
@[simp] theorem getV_setResultAndFlag (s : State) (x : RegIdx) (v : Byte) (c : Bool) (q : RegIdx) :
    (s.setResultAndFlag x v c).getV q = if q = vf then flagByte c else if q = x then v else s.getV q := by
  simp [setResultAndFlag]

/-- R121: the flag-setting write changes nothing but the registers. -/
theorem setResultAndFlag_frame (s : State) (x : RegIdx) (v : Byte) (c : Bool) :
    s.setResultAndFlag x v c = { s with V := (s.setResultAndFlag x v c).V } := rfl

/-- R201: entry into a fatal condition. -/
theorem raise_enteredFatal (s : State) (k : ErrKind) (w : Word) : enteredFatal k w s (s.raise k w) :=
  ⟨rfl, rfl, rfl, rfl, rfl⟩

/-- R78: an Unknown word either raises UnknownOpcode or only advances PC. -/
theorem unknownWord_cases (s : State) :
    (s.params.unknownOpcode = .fatal ∧ s.unknownWord = s.raise .unknownOpcode s.fetch) ∨
      (s.params.unknownOpcode = .skip ∧ s.unknownWord = s.advance) := by
  cases h : s.params.unknownOpcode <;> simp [unknownWord, h]

/-! ### Indexed bytes -/

@[simp] theorem getV_indexWrite (s : State) (r : Nat) (v : Byte) (q : RegIdx) : (s.indexWrite r v).getV q = s.getV q := rfl

@[simp] theorem memRead_setResultAndFlag (s : State) (x : RegIdx) (v : Byte) (c : Bool) (k : Nat) :
    (s.setResultAndFlag x v c).memRead k = s.memRead k := rfl

@[simp] theorem indexAddr_indexWrite (s : State) (r : Nat) (v : Byte) (q : Nat) :
    (s.indexWrite r v).indexAddr q = s.indexAddr q := rfl

theorem indexAddr_lt (s : State) (r : Nat) : s.indexAddr r < 4096 := Nat.mod_lt _ (by decide)

/-- R57, R180: an indexed write changes the byte at (I + r) mod 4096 only. -/
theorem memRead_indexWrite {s : State} (hm : Memory.wf s.params.font s.mem) (r : Nat) (v : Byte) (k : Nat) :
    (s.indexWrite r v).memRead k = if k % 4096 = s.indexAddr r then v else s.memRead k := by
  rw [indexWrite, memRead_memWrite hm, Nat.mod_eq_of_lt (s.indexAddr_lt r)]

/-- An indexed write keeps the canonical form of memory. -/
theorem indexWrite_wf {s : State} (hm : Memory.wf s.params.font s.mem) (r : Nat) (v : Byte) :
    Memory.wf (s.indexWrite r v).params.font (s.indexWrite r v).mem := memWrite_wf hm _ v

/-! ### Block moves -/

theorem storeRegs_succ (s : State) (n : Nat) :
    s.storeRegs (n + 1) = (s.storeRegs n).indexWrite n ((s.storeRegs n).getV (BitVec.ofNat 4 n)) := by
  simp [storeRegs, List.range_succ]

theorem loadRegs_succ (s : State) (n : Nat) :
    s.loadRegs (n + 1) = (s.loadRegs n).setV (BitVec.ofNat 4 n) ((s.loadRegs n).indexRead n) := by
  simp [loadRegs, List.range_succ]

/-- R185: a block store changes nothing but memory. -/
theorem storeRegs_frame (s : State) (n : Nat) : s.storeRegs n = { s with mem := (s.storeRegs n).mem } := by
  induction n with
  | zero => rfl
  | succ n ih =>
    rw [storeRegs_succ]
    generalize hu : s.storeRegs n = u at ih
    rw [ih]; rfl

/-- R186: a block load changes nothing but the registers. -/
theorem loadRegs_frame (s : State) (n : Nat) : s.loadRegs n = { s with V := (s.loadRegs n).V } := by
  induction n with
  | zero => rfl
  | succ n ih =>
    rw [loadRegs_succ]
    generalize hu : s.loadRegs n = u at ih
    rw [ih]; rfl

/-- R185: a block store keeps the canonical form of memory. -/
theorem storeRegs_wf {s : State} (hm : Memory.wf s.params.font s.mem) (n : Nat) :
    Memory.wf s.params.font (s.storeRegs n).mem := by
  induction n with
  | zero => exact hm
  | succ n ih =>
    have hp := congrArg State.params (storeRegs_frame s n)
    change (s.storeRegs n).params = s.params at hp
    rw [storeRegs_succ]
    have := memWrite_wf (s := s.storeRegs n) (by rw [hp]; exact ih) ((s.storeRegs n).indexAddr n)
      ((s.storeRegs n).getV (BitVec.ofNat 4 n))
    simpa [indexWrite, hp] using this

/-- R185: a block store puts V0 onwards at I onwards and leaves every other byte. -/
theorem storeRegs_read {s : State} (hm : Memory.wf s.params.font s.mem) (n : Nat) (hn : n ≤ 16) :
    (∀ r, r < n → (s.storeRegs n).memRead (s.indexAddr r) = s.getV (BitVec.ofNat 4 r)) ∧
    (∀ a, a < 4096 → (∀ r, r < n → a ≠ s.indexAddr r) → (s.storeRegs n).memRead a = s.memRead a) := by
  induction n with
  | zero => exact ⟨fun r hr => by omega, fun a _ _ => rfl⟩
  | succ n ih =>
    obtain ⟨h1, h2⟩ := ih (by omega)
    have hf := storeRegs_frame s n
    have hw := storeRegs_wf hm n
    rw [storeRegs_succ]
    generalize s.storeRegs n = u at *
    have hI : u.I = s.I := by rw [hf]
    have hp : u.params = s.params := by rw [hf]
    have hV : ∀ q, u.getV q = s.getV q := by intro q; rw [hf]; rfl
    have hia : ∀ r, u.indexAddr r = s.indexAddr r := by intro r; simp [indexAddr, hI]
    have hw' : Memory.wf u.params.font u.mem := by rw [hp]; exact hw
    simp only [indexWrite, hia, hV]
    constructor
    · intro r hr
      rw [memRead_memWrite hw']
      by_cases e : r = n
      · subst e; simp
      · rw [if_neg, h1 r (by omega)]; simp [indexAddr]; omega
    · intro a ha hne
      rw [memRead_memWrite hw', if_neg, h2 a ha fun r hr => hne r (by omega)]
      have := hne n (by omega)
      simp [indexAddr] at *; omega

/-- R186: a block load takes the first `n` registers from I onwards and leaves the others. -/
theorem loadRegs_read (s : State) (n : Nat) (hn : n ≤ 16) (r : RegIdx) :
    (s.loadRegs n).getV r = if r.toNat < n then s.memRead (s.indexAddr r.toNat) else s.getV r := by
  induction n with
  | zero => rfl
  | succ n ih =>
    have ih := ih (by omega)
    have hf := loadRegs_frame s n
    rw [loadRegs_succ]
    generalize s.loadRegs n = u at *
    have hi : u.indexRead n = s.memRead (s.indexAddr n) := by rw [hf]; rfl
    rw [getV_setV, hi, ih]
    by_cases e : r = BitVec.ofNat 4 n
    · subst e; simp [Nat.mod_eq_of_lt (show n < 16 by omega)]
    · have : r.toNat ≠ n := fun h => e (by rw [← h]; simp)
      rw [if_neg e]
      by_cases h : r.toNat < n
      · rw [if_pos h, if_pos (by omega)]
      · rw [if_neg h, if_neg (by omega)]

/-! ### Timers -/

theorem countDown_toNat (v : Byte) : (countDown v).toNat = v.toNat - 1 := by
  unfold countDown
  split
  · next h => simp [h]
  · next h =>
    have h' : v.toNat ≠ 0 := fun e => h (BitVec.eq_of_toNat_eq e)
    rw [BitVec.toNat_sub_of_le (by simp [BitVec.le_def]; omega)]
    rfl

/-- R223, R225: what `n` timer ticks do. -/
theorem runTimerTicks_spec (n : Nat) (s : State) :
    (runTimerTicks n s).DT.toNat = s.DT.toNat - n ∧ (runTimerTicks n s).ST.toNat = s.ST.toNat - n ∧
      (runTimerTicks n s).timerDone = s.timerDone + n ∧
      (runTimerTicks n s).tone = (if n = 0 then s.tone else (runTimerTicks n s).ST != 0#8) ∧
      runTimerTicks n s =
        { s with DT := (runTimerTicks n s).DT, ST := (runTimerTicks n s).ST, tone := (runTimerTicks n s).tone,
                 timerDone := (runTimerTicks n s).timerDone } := by
  induction n generalizing s with
  | zero => simp [runTimerTicks]
  | succ n ih =>
    obtain ⟨h1, h2, h3, h4, h5⟩ := ih { s.timerTick with timerDone := s.timerDone + 1 }
    simp only [runTimerTicks]
    refine ⟨?_, ?_, ?_, ?_, ?_⟩
    · rw [h1]; simp [countDown_toNat]; omega
    · rw [h2]; simp [countDown_toNat]; omega
    · rw [h3]; simp only; omega
    · rw [h4]
      by_cases hn : n = 0
      · subst hn; simp [runTimerTicks]
      · simp [hn]
    · generalize runTimerTicks n { s.timerTick with timerDone := s.timerDone + 1 } = u at h5 ⊢
      rw [h5]; rfl

/-- R223, R224: what follows the instruction tick of a step changes nothing but the timers, `tone` and the Timing Controller's
fields. -/
theorem retire_frame (s : State) :
    s.retire.instrDone = s.instrDone + 1 ∧
      s.retire = { s with DT := s.retire.DT, ST := s.retire.ST, tone := s.retire.tone, tTotal := s.retire.tTotal,
                          instrDone := s.retire.instrDone, timerDone := s.retire.timerDone } := by
  obtain ⟨-, -, -, -, h5⟩ := runTimerTicks_spec (if s.countInstr.instrOwed = 0 then s.countInstr.timerOwed else 0) s.countInstr
  unfold retire
  generalize runTimerTicks _ s.countInstr = u at h5 ⊢
  constructor
  · rw [h5]; rfl
  · rw [h5]; rfl

/-! ### Bytes stored at ascending addresses -/

/-- Storing bytes changes nothing but memory. -/
theorem memWriteList_frame (s : State) (a : Nat) (bs : List Byte) :
    s.memWriteList a bs = { s with mem := (s.memWriteList a bs).mem } := by
  induction bs generalizing s a with
  | nil => rfl
  | cons b rest ih =>
    have h := ih (s.memWrite a b) (a + 1)
    simp only [memWriteList]
    generalize (s.memWrite a b).memWriteList (a + 1) rest = u at h ⊢
    rw [h]; rfl

/-- Storing bytes keeps the canonical form of memory. -/
theorem memWriteList_wf {s : State} (hm : Memory.wf s.params.font s.mem) (a : Nat) (bs : List Byte) :
    Memory.wf s.params.font (s.memWriteList a bs).mem := by
  induction bs generalizing s a with
  | nil => exact hm
  | cons b rest ih => simpa [memWriteList] using ih (s := s.memWrite a b) (memWrite_wf hm a b) (a + 1)

/-- Bytes stored below the top of memory are read back, and every other byte is as before. -/
theorem memRead_memWriteList {s : State} (hm : Memory.wf s.params.font s.mem) (a : Nat) (bs : List Byte)
    (hb : a + bs.length ≤ 4096) (k : Nat) (hk : k < 4096) :
    (s.memWriteList a bs).memRead k =
      if h : a ≤ k ∧ k - a < bs.length then bs[k - a]'h.2 else s.memRead k := by
  induction bs generalizing s a with
  | nil => simp [memWriteList]
  | cons b rest ih =>
    simp only [List.length_cons] at hb
    rw [memWriteList, ih (s := s.memWrite a b) (memWrite_wf hm a b) (a + 1) (by omega)]
    by_cases h1 : a + 1 ≤ k ∧ k - (a + 1) < rest.length
    · have h2 : a ≤ k ∧ k - a < (b :: rest).length := by simp only [List.length_cons]; omega
      have e : k - a = k - (a + 1) + 1 := by omega
      rw [dif_pos h1, dif_pos h2]
      simp only [e, List.getElem_cons_succ]
    · rw [dif_neg h1, memRead_memWrite hm]
      by_cases h3 : k = a
      · subst h3; simp
      · have h2 : ¬(a ≤ k ∧ k - a < (b :: rest).length) := by simp only [List.length_cons]; omega
        rw [dif_neg h2, if_neg (by omega)]

end Sys2Proof.Machine.State

namespace Sys2Proof.Machine

/-! ### Outcomes -/

@[simp] theorem mapNext_next (f : State → State) (s : State) : mapNext f (.next s) = .next (f s) := rfl

@[simp] theorem onNext_next (f : State → Result) (s : State) : onNext (.next s) f = f s := rfl

/-- A mapped outcome is a next state exactly where the outcome is one. -/
theorem mapNext_eq_next {f : State → State} {o : Result} {t : State} (h : mapNext f o = .next t) :
    ∃ u, o = .next u ∧ t = f u := by
  cases o with
  | next u => exact ⟨u, rfl, by simpa using h.symm⟩
  | fault r => cases r
  | refused r => simp [mapNext] at h

/-- A continued outcome is a next state exactly where both parts are. -/
theorem onNext_eq_next {f : State → Result} {o : Result} {t : State} (h : onNext o f = .next t) :
    ∃ u, o = .next u ∧ f u = .next t := by
  cases o with
  | next u => exact ⟨u, rfl, h⟩
  | fault r => cases r
  | refused r => simp [onNext] at h

/-! ### Pixels -/

/-- R143: flipping a pixel inverts it and leaves every other one. -/
theorem pixelAt_flipPixel (g : Grid) (x y x' y' : Nat) :
    pixelAt (flipPixel g x y) x' y' =
      (pixelAt g x' y' != decide (x' % 64 = x % 64 ∧ y' % 32 = y % 32)) := by
  unfold flipPixel
  by_cases hy : y' % 32 = y % 32
  · by_cases hx : x' % 64 = x % 64
    · simp [pixelAt, hx, hy]
    · simp [pixelAt, hx, hy, Ne.symm hx]
  · simp [pixelAt, hy, Ne.symm hy]

/-- The display is determined by its pixels. -/
theorem grid_ext {g h : Grid} (e : ∀ x y, x < 64 → y < 32 → pixelAt g x y = pixelAt h x y) : g = h := by
  refine Vector.ext fun y hy => Vector.ext fun x hx => ?_
  have := e x y hx hy
  simpa [pixelAt, Nat.mod_eq_of_lt hx, Nat.mod_eq_of_lt hy] using this

end Sys2Proof.Machine
end

