-- ==== Sys2Proof/Laws/Exec.lean ====
section
/-! SUPPORT. Say once what an instruction can do: the inversion lemma of `exec`, from which a rule over all instructions is
derived without unfolding the meanings again. -/

namespace Sys2Proof.Machine

/-- The fields an instruction may write when it raises no condition; every other field is the state's own. -/
def State.writtenByInstr (s t : State) : Prop :=
  t = { s with mem := t.mem, V := t.V, I := t.I, PC := t.PC, SP := t.SP, stack := t.stack, DT := t.DT, ST := t.ST,
               disp := t.disp, dirty := t.dirty, waitActive := t.waitActive, waitPrev := t.waitPrev, draws := t.draws }

/-- Every instruction answers a next state: entry into a fatal condition (60_exceptions.md R201), or a state that differs in
the fields of `writtenByInstr` only. -/
theorem exec_cases (i : Instr) (s : State) :
    ∃ t, exec i s = .next t ∧ ((∃ k, t = s.raise k (encode i)) ∨ s.writtenByInstr t) := by
  cases i with
  | sys nnn =>
    simp only [exec, execSys]
    split
    · exact ⟨_, rfl, .inl ⟨_, rfl⟩⟩
    · exact ⟨_, rfl, .inr rfl⟩
  | ret =>
    simp only [exec, execRet]
    split
    · exact ⟨_, rfl, .inl ⟨_, rfl⟩⟩
    · exact ⟨_, rfl, .inr rfl⟩
  | call nnn =>
    simp only [exec, execCall]
    split
    · exact ⟨_, rfl, .inl ⟨_, rfl⟩⟩
    · exact ⟨_, rfl, .inr rfl⟩
  | jpV0 nnn =>
    by_cases h : 0xFFF < s.offsetTarget nnn ∧ s.params.jumpOverflow = .fault
    · exact ⟨_, if_pos h, .inl ⟨_, rfl⟩⟩
    · exact ⟨_, if_neg h, .inr rfl⟩
  | seImm x kk => exact ⟨_, rfl, .inr (by cases h : s.getV x == kk <;> rfl)⟩
  | sneImm x kk => exact ⟨_, rfl, .inr (by cases h : s.getV x != kk <;> rfl)⟩
  | seReg x y => exact ⟨_, rfl, .inr (by cases h : s.getV x == s.getV y <;> rfl)⟩
  | sneReg x y => exact ⟨_, rfl, .inr (by cases h : s.getV x != s.getV y <;> rfl)⟩
  | skp x => exact ⟨_, rfl, .inr (by cases h : s.keyDown (s.keyIndex x) <;> rfl)⟩
  | sknp x => exact ⟨_, rfl, .inr (by cases h : !s.keyDown (s.keyIndex x) <;> rfl)⟩
  | ldVxK x =>
    simp only [exec, execLdVxK]
    split
    · split
      · exact ⟨_, rfl, .inr rfl⟩
      · exact ⟨_, rfl, .inr rfl⟩
    · exact ⟨_, rfl, .inr rfl⟩
  | ldStore x =>
    refine ⟨_, rfl, .inr ?_⟩
    have h := s.storeRegs_frame (x.toNat + 1)
    generalize s.storeRegs (x.toNat + 1) = u at h ⊢
    rw [h]; rfl
  | ldLoad x =>
    refine ⟨_, rfl, .inr ?_⟩
    have h := s.loadRegs_frame (x.toNat + 1)
    generalize s.loadRegs (x.toNat + 1) = u at h ⊢
    rw [h]; rfl
  | _ => exact ⟨_, rfl, .inr rfl⟩

/-- The instruction tick answers a next state: the state itself while halted, entry into a fatal condition, or a state that
differs in the fields an instruction may write (R206, R222). -/
theorem instrTick_cases (s : State) :
    ∃ t, instrTick s = .next t ∧ ((∃ k w, t = s.raise k w) ∨ s.writtenByInstr t) := by
  unfold instrTick
  split
  · exact ⟨s, rfl, .inr rfl⟩
  · split
    · next i _ =>
      obtain ⟨t, h, hk⟩ := exec_cases i s
      refine ⟨t, h, hk.imp_left ?_⟩
      rintro ⟨k, e⟩
      exact ⟨k, _, e⟩
    · refine ⟨_, rfl, ?_⟩
      rcases s.unknownWord_cases with ⟨-, h⟩ | ⟨-, h⟩
      · exact .inl ⟨_, _, h⟩
      · rw [h]; exact .inr rfl

end Sys2Proof.Machine
end

