-- ==== Sys2Proof/Laws/Controller.lean ====
section
/-! SUPPORT. The tick accounting of 60_exceptions.md R223 in arithmetic, and what a run of ticks does to it. -/

namespace Sys2Proof.Machine

/-- `ticksDue` is the floor of R223. -/
theorem ticksDue_eq {t : Rat} (ht : 0 ≤ t) (rate : Nat) : ticksDue t rate = ⌊t * rate⌋.toNat := by
  have hn : 0 ≤ t.num := Rat.num_nonneg.mpr ht
  have e : t * (rate : Rat) = ((t.num.toNat * rate : Nat) : Rat) / ((t.den : Nat) : Rat) := by
    conv_lhs => rw [← Rat.num_div_den t]
    have : (t.num : Rat) = ((t.num.toNat : Nat) : Rat) := by
      rw [← Int.cast_natCast, Int.toNat_of_nonneg hn]
    rw [this]; push_cast; ring
  rw [e, ticksDue, Int.floor_toNat, Nat.floor_div_eq_div]

/-- `State.OnTime` by `ticksDue`. -/
theorem onTime_iff (s : State) :
    s.OnTime ↔ 0 < s.params.instrRate ∧ 0 ≤ s.tTotal ∧
      s.instrDone = ticksDue s.tTotal s.params.instrRate ∧ s.timerDone = ticksDue s.tTotal 60 := by
  constructor
  · rintro ⟨a, b, c, d⟩
    refine ⟨a, b, ?_, ?_⟩
    · rw [c, ticksDue_eq b]
    · rw [d, ticksDue_eq b]; norm_num
  · rintro ⟨a, b, c, d⟩
    refine ⟨a, b, ?_, ?_⟩
    · rw [c, ticksDue_eq b]
    · rw [d, ticksDue_eq b]; norm_num

theorem ticksDue_mono {t u : Rat} (ht : 0 ≤ t) (h : t ≤ u) (rate : Nat) : ticksDue t rate ≤ ticksDue u rate := by
  rw [ticksDue_eq ht, ticksDue_eq (ht.trans h)]
  exact Int.toNat_le_toNat (Int.floor_le_floor (by gcongr))

/-- No instruction tick writes the Timing Controller's fields or the parameters. -/
theorem instrTick_fields {s t : State} (h : instrTick s = .next t) :
    t.tTotal = s.tTotal ∧ t.instrDone = s.instrDone ∧ t.timerDone = s.timerDone ∧ t.params = s.params := by
  obtain ⟨u, h1, h2⟩ := instrTick_cases s
  rw [h1] at h; cases h
  rcases h2 with ⟨k, w, rfl⟩ | h
  · exact ⟨rfl, rfl, rfl, rfl⟩
  · rw [h]; exact ⟨rfl, rfl, rfl, rfl⟩

/-- At the time the next instruction tick is due, it is due. -/
theorem ticksDue_due (k rate : Nat) (hr : 0 < rate) : ticksDue (mkRat (k+1) rate) rate = k + 1 := by
  have hr' : (0 : Rat) < rate := by exact_mod_cast hr
  have e : mkRat (k+1) rate = ((k:Rat)+1) / (rate:Rat) := by rw [Rat.mkRat_eq_div]; push_cast; rfl
  rw [ticksDue_eq (by rw [e]; positivity), e, div_mul_cancel₀ _ hr'.ne']
  have : ((k:Rat)+1) = ((k+1 : Nat) : Rat) := by push_cast; rfl
  rw [this, Int.floor_natCast]; rfl

/-- What running `n` instruction ticks does to the Timing Controller's fields (R223). -/
theorem runInstrTicks_fields (n : Nat) (s : State) :
    ∃ u, runInstrTicks n s = .next u ∧ u.tTotal = s.tTotal ∧ u.instrDone = s.instrDone + n ∧
      u.timerDone = s.timerDone ∧ u.params = s.params := by
  induction n generalizing s with
  | zero => exact ⟨s, rfl, rfl, rfl, rfl, rfl⟩
  | succ n ih =>
    obtain ⟨u, hu, -⟩ := instrTick_cases s
    obtain ⟨a, b, c, d⟩ := instrTick_fields hu
    obtain ⟨v, h1, h2, h3, h4, h5⟩ := ih { u with instrDone := u.instrDone + 1 }
    refine ⟨v, by simp [runInstrTicks, hu, h1], h2.trans a, by rw [h3, ← b]; simp; omega, h4.trans c, h5.trans d⟩

end Sys2Proof.Machine
end

