-- ==== Sys2Proof/Laws/Decode.lean ====
section
/-! SUPPORT. The fields of R71 as arithmetic on the word's value, and the fields of each format's word. -/

namespace Sys2Proof

theorem opField_toNat (w : Word) : (opField w).toNat = w.toNat / 4096 % 16 := by
  simp [opField, Nat.shiftRight_eq_div_pow]

theorem xField_toNat (w : Word) : (xField w).toNat = w.toNat / 256 % 16 := by
  simp [xField, Nat.shiftRight_eq_div_pow]

theorem yField_toNat (w : Word) : (yField w).toNat = w.toNat / 16 % 16 := by
  simp [yField, Nat.shiftRight_eq_div_pow]

theorem nField_toNat (w : Word) : (nField w).toNat = w.toNat % 16 := by
  simp [nField]

theorem kkField_toNat (w : Word) : (kkField w).toNat = w.toNat % 256 := by
  simp [kkField]

theorem nnnField_toNat (w : Word) : (nnnField w).toNat = w.toNat % 4096 := by
  simp [nnnField]

/-- Concatenation as arithmetic, with `a` more significant (00_scope.md R10). -/
theorem toNat_append_eq {n m : Nat} (a : BitVec n) (b : BitVec m) :
    (a ++ b).toNat = a.toNat * 2 ^ m + b.toNat := by
  rw [BitVec.toNat_append, ← Nat.shiftLeft_add_eq_or_of_lt b.isLt, Nat.shiftLeft_eq]

section Formats
variable (a b c d : BitVec 4) (kk : Byte) (nnn : Addr)

/-- Format `A` (R71). -/
theorem toNat_formatA : BitVec.toNat (w := 16) (a ++ nnn) = a.toNat * 4096 + nnn.toNat :=
  toNat_append_eq a nnn

/-- Formats `XKK` and `X` (R71). -/
theorem toNat_formatXKK :
    BitVec.toNat (w := 16) (a ++ b ++ kk) = a.toNat * 4096 + b.toNat * 256 + kk.toNat := by
  have h : BitVec.toNat (w := 16) (a ++ b ++ kk) = (a ++ b).toNat * 2 ^ 8 + kk.toNat := toNat_append_eq (a ++ b) kk
  rw [h, toNat_append_eq a b]; omega

/-- Formats `XY` and `XYN` (R71). -/
theorem toNat_formatXYN :
    BitVec.toNat (w := 16) (a ++ b ++ c ++ d) =
      a.toNat * 4096 + b.toNat * 256 + c.toNat * 16 + d.toNat := by
  have h : BitVec.toNat (w := 16) (a ++ b ++ c ++ d) = (a ++ b ++ c).toNat * 2 ^ 4 + d.toNat :=
    toNat_append_eq (a ++ b ++ c) d
  rw [h, toNat_append_eq (a ++ b) c, toNat_append_eq a b]; omega

@[simp] theorem opField_formatA : opField (a ++ nnn) = a := by
  apply BitVec.eq_of_toNat_eq
  rw [opField_toNat, toNat_formatA]; omega

@[simp] theorem nnnField_formatA : nnnField (a ++ nnn) = nnn := by
  apply BitVec.eq_of_toNat_eq
  rw [nnnField_toNat, toNat_formatA]; omega

@[simp] theorem opField_formatXKK : opField (a ++ b ++ kk) = a := by
  apply BitVec.eq_of_toNat_eq
  rw [opField_toNat, toNat_formatXKK]; omega

@[simp] theorem xField_formatXKK : xField (a ++ b ++ kk) = b := by
  apply BitVec.eq_of_toNat_eq
  rw [xField_toNat, toNat_formatXKK]; omega

@[simp] theorem kkField_formatXKK : kkField (a ++ b ++ kk) = kk := by
  apply BitVec.eq_of_toNat_eq
  rw [kkField_toNat, toNat_formatXKK]; omega

@[simp] theorem opField_formatXYN : opField (a ++ b ++ c ++ d) = a := by
  apply BitVec.eq_of_toNat_eq
  rw [opField_toNat, toNat_formatXYN]; omega

@[simp] theorem xField_formatXYN : xField (a ++ b ++ c ++ d) = b := by
  apply BitVec.eq_of_toNat_eq
  rw [xField_toNat, toNat_formatXYN]; omega

@[simp] theorem yField_formatXYN : yField (a ++ b ++ c ++ d) = c := by
  apply BitVec.eq_of_toNat_eq
  rw [yField_toNat, toNat_formatXYN]; omega

@[simp] theorem nField_formatXYN : nField (a ++ b ++ c ++ d) = d := by
  apply BitVec.eq_of_toNat_eq
  rw [nField_toNat, toNat_formatXYN]; omega

end Formats

/-- A word is the concatenation of its two bytes (20_memory.md R54). -/
@[simp] theorem wordOfBytes_bytesOfWord (w : Word) :
    wordOfBytes (bytesOfWord w).1 (bytesOfWord w).2 = w := by
  apply BitVec.eq_of_toNat_eq
  have h : (wordOfBytes (bytesOfWord w).1 (bytesOfWord w).2).toNat =
      (bytesOfWord w).1.toNat * 2 ^ 8 + (bytesOfWord w).2.toNat := toNat_append_eq _ _
  rw [h]
  simp only [bytesOfWord, BitVec.extractLsb'_toNat, Nat.shiftRight_eq_div_pow]
  omega

end Sys2Proof
end

