-- ==== Sys2Proof/Laws/Display.lean ====
section
/-! SUPPORT. Which pixels the sprite blitter inverts, and what it reports (42_display.md R143). -/

namespace Sys2Proof.Machine

/-- Whether one of the first `k` columns of the sprite row `r`, whose byte is `b`, has a set bit at a pixel. -/
def rowCovers (ox oy r k : Nat) (b : Byte) (px py : Nat) : Bool :=
  (List.range k).any fun c => b.getLsbD (7 - c) && decide (px % 64 = (ox + c) % 64 ∧ py % 32 = (oy + r) % 32)

/-- Drawing the first `k` columns of a row inverts exactly the pixels they cover (R143). -/
theorem blitRow_spec (ox oy r k : Nat) (hk : k ≤ 8) (b : Byte) (acc : Blit) :
    let u := (List.range k).foldl (blitBit ox oy r b) acc
    (∀ px py, pixelAt u.grid px py = (pixelAt acc.grid px py != rowCovers ox oy r k b px py)) ∧
    (u.collide = true ↔ acc.collide = true ∨ ∃ px py, px < 64 ∧ py < 32 ∧ rowCovers ox oy r k b px py = true ∧ pixelAt acc.grid px py = true) ∧
    (u.changed = true ↔ acc.changed = true ∨ ∃ px py, px < 64 ∧ py < 32 ∧ rowCovers ox oy r k b px py = true) := by
  induction k with
  | zero => simp [rowCovers]
  | succ k ih =>
    obtain ⟨h1, h2, h3⟩ := ih (by omega)
    simp only [List.range_succ, List.foldl_append, List.foldl_cons, List.foldl_nil]
    generalize (List.range k).foldl (blitBit ox oy r b) acc = u at h1 h2 h3
    have hcov : ∀ px py, rowCovers ox oy r (k+1) b px py = (rowCovers ox oy r k b px py || (b.getLsbD (7 - k) && decide (px % 64 = (ox + k) % 64 ∧ py % 32 = (oy + r) % 32))) := by
      intro px py; simp [rowCovers, List.range_succ]
    by_cases hb : b.getLsbD (7 - k) = true
    · have hno : ∀ px py, px % 64 = (ox + k) % 64 → rowCovers ox oy r k b px py = false := by
        intro px py e
        simp only [rowCovers, List.any_eq_false, List.mem_range]
        intro c hc
        simp; intro _ e'; omega
      simp only [blitBit, if_pos hb]
      refine ⟨?_, ?_, ?_⟩
      · intro px py
        rw [pixelAt_flipPixel, h1, hcov, hb]
        by_cases e : px % 64 = (ox + k) % 64
        · rw [hno px py e]; simp
        · simp [e]
      · simp only [Bool.or_eq_true, h2, h1, hcov, hb, Bool.true_and]
        have hx : (ox+k) % 64 < 64 := Nat.mod_lt _ (by decide)
        have hy : (oy+r) % 32 < 32 := Nat.mod_lt _ (by decide)
        have hp : pixelAt acc.grid ((ox+k) % 64) ((oy+r) % 32) = pixelAt acc.grid (ox+k) (oy+r) := by simp [pixelAt]
        constructor
        · rintro ((h | ⟨px, py, a, b, c, d⟩) | h)
          · exact .inl h
          · exact .inr ⟨px, py, a, b, .inl c, d⟩
          · rw [hno _ _ rfl] at h
            refine .inr ⟨_, _, hx, hy, .inr (by simp), ?_⟩
            rw [hp]; simpa using h
        · rintro (h | ⟨px, py, a, b, c | c, d⟩)
          · exact .inl (.inl h)
          · exact .inl (.inr ⟨px, py, a, b, c, d⟩)
          · right
            rw [hno _ _ rfl]
            simp only [decide_eq_true_eq] at c
            have : pixelAt acc.grid px py = pixelAt acc.grid (ox+k) (oy+r) := by simp only [pixelAt, c.1, c.2]
            rw [← this]; simpa using d
      · have hx : (ox+k) % 64 < 64 := Nat.mod_lt _ (by decide)
        have hy : (oy+r) % 32 < 32 := Nat.mod_lt _ (by decide)
        simp only [true_iff]
        exact .inr ⟨_, _, hx, hy, by rw [hcov, hb]; simp⟩
    · simp only [blitBit, if_neg hb]
      simp only [Bool.not_eq_true] at hb
      have : ∀ px py, rowCovers ox oy r (k+1) b px py = rowCovers ox oy r k b px py := by intro px py; rw [hcov, hb]; simp
      simp only [this]
      exact ⟨h1, h2, h3⟩

/-- Whether one of the first `n` rows of a sprite has a set bit at a pixel. -/
def spriteRowsCover (ox oy n : Nat) (rows : Nat → Byte) (px py : Nat) : Bool :=
  (List.range n).any fun r => rowCovers ox oy r 8 (rows r) px py

/-- Drawing a sprite inverts exactly the pixels its set bits cover, `collide` says that one of them was set, and `changed` that
there is one (R143). -/
theorem blitSprite_spec (ox oy n : Nat) (hn : n ≤ 16) (rows : Nat → Byte) (g : Grid) :
    let u := blitSprite ox oy n rows g
    (∀ px py, pixelAt u.grid px py = (pixelAt g px py != spriteRowsCover ox oy n rows px py)) ∧
    (u.collide = true ↔ ∃ px py, px < 64 ∧ py < 32 ∧ spriteRowsCover ox oy n rows px py = true ∧ pixelAt g px py = true) ∧
    (u.changed = true ↔ ∃ px py, px < 64 ∧ py < 32 ∧ spriteRowsCover ox oy n rows px py = true) := by
  unfold blitSprite
  induction n with
  | zero => simp [spriteRowsCover]
  | succ n ih =>
    obtain ⟨h1, h2, h3⟩ := ih (by omega)
    simp only [List.range_succ, List.foldl_append, List.foldl_cons, List.foldl_nil]
    generalize (List.range n).foldl _ _ = u at h1 h2 h3
    obtain ⟨k1, k2, k3⟩ := blitRow_spec ox oy n 8 (by omega) (rows n) u
    have hcov : ∀ px py, spriteRowsCover ox oy (n+1) rows px py = (spriteRowsCover ox oy n rows px py || rowCovers ox oy n 8 (rows n) px py) := by
      intro px py; simp [spriteRowsCover, List.range_succ]
    have hex : ∀ px py, rowCovers ox oy n 8 (rows n) px py = true → spriteRowsCover ox oy n rows px py = false := by
      intro px py h
      simp only [rowCovers, List.any_eq_true, List.mem_range, Bool.and_eq_true, decide_eq_true_eq] at h
      obtain ⟨c, hc, -, hx, hy⟩ := h
      simp only [spriteRowsCover, rowCovers, List.any_eq_false, List.mem_range]
      intro r hr
      simp only [List.any_eq_true, List.mem_range, Bool.and_eq_true, decide_eq_true_eq, not_exists, not_and]
      intro c' hc' _ hx' hy'
      omega
    unfold blitRow
    refine ⟨?_, ?_, ?_⟩
    · intro px py
      rw [k1, h1, hcov]
      cases e : rowCovers ox oy n 8 (rows n) px py
      · simp
      · rw [hex _ _ e]; simp
    · rw [k2, h2]; simp only [hcov, h1]
      constructor
      · rintro (⟨px, py, a, b, c, d⟩ | ⟨px, py, a, b, c, d⟩)
        · exact ⟨px, py, a, b, by simp [c], d⟩
        · rw [hex _ _ c] at d; exact ⟨px, py, a, b, by simp [c], by simpa using d⟩
      · rintro ⟨px, py, a, b, c, d⟩
        simp only [Bool.or_eq_true] at c
        rcases c with c | c
        · exact .inl ⟨px, py, a, b, c, d⟩
        · exact .inr ⟨px, py, a, b, c, by rw [hex _ _ c]; simpa using d⟩
    · rw [k3, h3]; simp only [hcov, Bool.or_eq_true]
      constructor
      · rintro (⟨px, py, a, b, c⟩ | ⟨px, py, a, b, c⟩)
        · exact ⟨px, py, a, b, .inl c⟩
        · exact ⟨px, py, a, b, .inr c⟩
      · rintro ⟨px, py, a, b, c | c⟩
        · exact .inl ⟨px, py, a, b, c⟩
        · exact .inr ⟨px, py, a, b, c⟩

/-- The pixels DRW's sprite covers, as `spriteCovers` says them. -/
theorem spriteRowsCover_eq (s : State) (x y : RegIdx) (n : BitVec 4) (px py : Nat) (hx : px < 64) (hy : py < 32) :
    spriteRowsCover ((s.getV x).toNat % 64) ((s.getV y).toNat % 32) n.toNat s.indexRead px py = spriteCovers s x y n px py := by
  rw [Bool.eq_iff_iff]
  have hn := n.isLt
  simp only [spriteRowsCover, rowCovers, spriteCovers, List.any_eq_true, List.mem_range, Bool.and_eq_true, decide_eq_true_eq]
  constructor
  · rintro ⟨r, hr, c, hc, hb, h1, h2⟩
    have e1 : (px + 64 - (s.getV x).toNat % 64) % 64 = c := by omega
    have e2 : (py + 32 - (s.getV y).toNat % 32) % 32 = r := by omega
    rw [e1, e2]
    refine ⟨⟨hr, hc⟩, ?_⟩
    simpa [State.indexRead, State.indexAddr] using hb
  · rintro ⟨⟨hr, hc⟩, hb⟩
    refine ⟨_, hr, _, hc, ?_, ?_, ?_⟩
    · simpa [State.indexRead, State.indexAddr] using hb
    · omega
    · omega

end Sys2Proof.Machine
end

