-- ==== Sys2Proof/Laws/PerInstr.lean ====
section
/-! SUPPORT. One lemma for each instruction form about its word and its row of the opcode table (30_encoding.md R84). -/

namespace Sys2Proof.Laws

section Masks
variable (a x y n : BitVec 4) (kk : Byte) (nnn : Addr)

/-- Format `A` under the mask of the high nibble. -/
theorem mask_formatA : ((a ++ nnn : Word) &&& 0xF000#16) = a ++ 0#12 := by
  apply BitVec.eq_of_getLsbD_eq
  intro k hk
  simp only [BitVec.getLsbD_and, BitVec.getLsbD_append]
  interval_cases k <;> simp

/-- Format `XKK` under the mask of the high nibble. -/
theorem mask_formatXKK : ((a ++ x ++ kk : Word) &&& 0xF000#16) = a ++ 0#12 := by
  apply BitVec.eq_of_getLsbD_eq
  intro k hk
  simp only [BitVec.getLsbD_and, BitVec.getLsbD_append]
  interval_cases k <;> simp

/-- Format `X` under the mask of the high nibble and the function byte. -/
theorem mask_formatX : ((a ++ x ++ kk : Word) &&& 0xF0FF#16) = a ++ 0#4 ++ kk := by
  apply BitVec.eq_of_getLsbD_eq
  intro k hk
  simp only [BitVec.getLsbD_and, BitVec.getLsbD_append]
  interval_cases k <;> simp

/-- Formats `XY` and `XYN` under the mask of the high nibble. -/
theorem mask_formatXYN : ((a ++ x ++ y ++ n : Word) &&& 0xF000#16) = a ++ 0#12 := by
  apply BitVec.eq_of_getLsbD_eq
  intro k hk
  simp only [BitVec.getLsbD_and, BitVec.getLsbD_append]
  interval_cases k <;> simp

/-- Format `XY` under the mask of the high and function nibbles. -/
theorem mask_formatXY : ((a ++ x ++ y ++ n : Word) &&& 0xF00F#16) = a ++ 0#8 ++ n := by
  apply BitVec.eq_of_getLsbD_eq
  intro k hk
  simp only [BitVec.getLsbD_and, BitVec.getLsbD_append]
  interval_cases k <;> simp

end Masks

namespace RowMatch

/-- The word of an instruction matches the mask and match value of its row of R84. -/
def Statement (i : Instr) : Prop := encode i &&& (tableRow i).mask = (tableRow i).value

theorem sys (nnn : Addr) : Statement (.sys nnn) := mask_formatA 0x0#4 nnn
theorem cls : Statement .cls := rfl
theorem ret : Statement .ret := rfl
theorem jp (nnn : Addr) : Statement (.jp nnn) := mask_formatA 0x1#4 nnn
theorem call (nnn : Addr) : Statement (.call nnn) := mask_formatA 0x2#4 nnn
theorem seImm (x : RegIdx) (kk : Byte) : Statement (.seImm x kk) := mask_formatXKK 0x3#4 x kk
theorem sneImm (x : RegIdx) (kk : Byte) : Statement (.sneImm x kk) := mask_formatXKK 0x4#4 x kk
theorem seReg (x y : RegIdx) : Statement (.seReg x y) := mask_formatXYN 0x5#4 x y 0x0#4
theorem ldImm (x : RegIdx) (kk : Byte) : Statement (.ldImm x kk) := mask_formatXKK 0x6#4 x kk
theorem addImm (x : RegIdx) (kk : Byte) : Statement (.addImm x kk) := mask_formatXKK 0x7#4 x kk
theorem ldReg (x y : RegIdx) : Statement (.ldReg x y) := mask_formatXY 0x8#4 x y 0x0#4
theorem orReg (x y : RegIdx) : Statement (.orReg x y) := mask_formatXY 0x8#4 x y 0x1#4
theorem andReg (x y : RegIdx) : Statement (.andReg x y) := mask_formatXY 0x8#4 x y 0x2#4
theorem xorReg (x y : RegIdx) : Statement (.xorReg x y) := mask_formatXY 0x8#4 x y 0x3#4
theorem addReg (x y : RegIdx) : Statement (.addReg x y) := mask_formatXY 0x8#4 x y 0x4#4
theorem sub (x y : RegIdx) : Statement (.sub x y) := mask_formatXY 0x8#4 x y 0x5#4
theorem shr (x y : RegIdx) : Statement (.shr x y) := mask_formatXY 0x8#4 x y 0x6#4
theorem subn (x y : RegIdx) : Statement (.subn x y) := mask_formatXY 0x8#4 x y 0x7#4
theorem shl (x y : RegIdx) : Statement (.shl x y) := mask_formatXY 0x8#4 x y 0xE#4
theorem sneReg (x y : RegIdx) : Statement (.sneReg x y) := mask_formatXYN 0x9#4 x y 0x0#4
theorem ldI (nnn : Addr) : Statement (.ldI nnn) := mask_formatA 0xA#4 nnn
theorem jpV0 (nnn : Addr) : Statement (.jpV0 nnn) := mask_formatA 0xB#4 nnn
theorem rnd (x : RegIdx) (kk : Byte) : Statement (.rnd x kk) := mask_formatXKK 0xC#4 x kk
theorem drw (x y : RegIdx) (n : BitVec 4) : Statement (.drw x y n) := mask_formatXYN 0xD#4 x y n
theorem skp (x : RegIdx) : Statement (.skp x) := mask_formatX 0xE#4 x 0x9E#8
theorem sknp (x : RegIdx) : Statement (.sknp x) := mask_formatX 0xE#4 x 0xA1#8
theorem ldVxDt (x : RegIdx) : Statement (.ldVxDt x) := mask_formatX 0xF#4 x 0x07#8
theorem ldVxK (x : RegIdx) : Statement (.ldVxK x) := mask_formatX 0xF#4 x 0x0A#8
theorem ldDtVx (x : RegIdx) : Statement (.ldDtVx x) := mask_formatX 0xF#4 x 0x15#8
theorem ldStVx (x : RegIdx) : Statement (.ldStVx x) := mask_formatX 0xF#4 x 0x18#8
theorem addI (x : RegIdx) : Statement (.addI x) := mask_formatX 0xF#4 x 0x1E#8
theorem ldF (x : RegIdx) : Statement (.ldF x) := mask_formatX 0xF#4 x 0x29#8
theorem ldB (x : RegIdx) : Statement (.ldB x) := mask_formatX 0xF#4 x 0x33#8
theorem ldStore (x : RegIdx) : Statement (.ldStore x) := mask_formatX 0xF#4 x 0x55#8
theorem ldLoad (x : RegIdx) : Statement (.ldLoad x) := mask_formatX 0xF#4 x 0x65#8

end RowMatch

end Sys2Proof.Laws
end

