-- ==== Sys2Proof/Laws/Snapshot.lean ====
section
/-! SUPPORT. What each section of a saved snapshot holds (60_exceptions.md R241), and that a saved snapshot passes the checks
of R243. -/

namespace Sys2Proof.Machine

/-! ### Bytes of a concatenation -/

theorem byteAt_append_left {a b : List Byte} {k : Nat} (h : k < a.length) : byteAt (a ++ b) k = byteAt a k := by
  simp [byteAt, List.getElem?_append, h]

theorem byteAt_append_right {a b : List Byte} {n k : Nat} (hn : a.length = n) : byteAt (a ++ b) (n + k) = byteAt b k := by
  subst hn
  simp [byteAt, List.getElem?_append]

theorem length_flatMap_wordBytes (l : List Word) : (l.flatMap wordBytes).length = 2 * l.length := by
  induction l with
  | nil => rfl
  | cons w l ih => rw [List.flatMap_cons, List.length_append, ih]; simp [wordBytes]; omega

theorem getElem_flatMap_wordBytes (l : List Word) (k : Nat) (h : k < l.length) :
    (l.flatMap wordBytes)[2 * k]? = some (bytesOfWord l[k]).1 ∧
      (l.flatMap wordBytes)[2 * k + 1]? = some (bytesOfWord l[k]).2 := by
  induction l generalizing k with
  | nil => simp at h
  | cons w l ih =>
    cases k with
    | zero => simp [wordBytes]
    | succ k =>
      have := ih k (by simpa using h)
      simpa [wordBytes, show 2 * (k + 1) = 2 * k + 1 + 1 by omega] using this

/-! ### The offsets of R241 -/

theorem offI_eq : offI = 4145 := rfl
theorem offPC_eq : offPC = 4147 := rfl
theorem offSP_eq : offSP = 4149 := rfl
theorem offStack_eq : offStack = 4150 := rfl
theorem offDT_eq : offDT = 4182 := rfl
theorem offST_eq : offST = 4183 := rfl
theorem offDisp_eq : offDisp = 4184 := rfl
theorem offMem_eq : offMem = 33 := rfl
theorem offV_eq : offV = 4129 := rfl

theorem snapshotHeader_length : snapshotHeader.length = 33 := by decide

namespace State

/-! The header and the first `k` sections after it. -/

def saved0 (_ : State) : List Byte := snapshotHeader
def saved1 (s : State) : List Byte := s.saved0 ++ s.memBytes
def saved2 (s : State) : List Byte := s.saved1 ++ s.V.toList
def saved3 (s : State) : List Byte := s.saved2 ++ wordBytes s.I
def saved4 (s : State) : List Byte := s.saved3 ++ wordBytes s.PC
def saved5 (s : State) : List Byte := s.saved4 ++ [BitVec.ofNat 8 s.SP.val]
def saved6 (s : State) : List Byte := s.saved5 ++ s.stack.toList.flatMap wordBytes
def saved7 (s : State) : List Byte := s.saved6 ++ [s.DT]
def saved8 (s : State) : List Byte := s.saved7 ++ [s.ST]
def saved9 (s : State) : List Byte := s.saved8 ++ (List.range 256).map (dispByte s.disp)

theorem saveSnapshot_eq (s : State) : s.saveSnapshot = s.saved9 := rfl

theorem length_saved1 (s : State) : (s.saved1).length = 4129 := by
  simp only [saved1, saved0, List.length_append, snapshotHeader_length, memBytes, List.length_map, List.length_range]
theorem length_saved2 (s : State) : (s.saved2).length = 4145 := by
  rw [saved2, List.length_append, length_saved1]; simp
theorem length_saved3 (s : State) : (s.saved3).length = 4147 := by
  rw [saved3, List.length_append, length_saved2]; rfl
theorem length_saved4 (s : State) : (s.saved4).length = 4149 := by
  rw [saved4, List.length_append, length_saved3]; rfl
theorem length_saved5 (s : State) : (s.saved5).length = 4150 := by
  rw [saved5, List.length_append, length_saved4]; rfl
theorem length_saved6 (s : State) : (s.saved6).length = 4182 := by
  rw [saved6, List.length_append, length_saved5, length_flatMap_wordBytes]; simp
theorem length_saved7 (s : State) : (s.saved7).length = 4183 := by
  rw [saved7, List.length_append, length_saved6]; rfl
theorem length_saved8 (s : State) : (s.saved8).length = 4184 := by
  rw [saved8, List.length_append, length_saved7]; rfl
theorem length_saved9 (s : State) : (s.saved9).length = 4440 := by
  rw [saved9, List.length_append, length_saved8, List.length_map, List.length_range]

theorem byteAt_save8 (s : State) {k : Nat} (h : k < 4184) : byteAt s.saveSnapshot k = byteAt (s.saved8) k := by
  rw [saveSnapshot_eq, saved9, byteAt_append_left]; rw [length_saved8]; exact h
theorem byteAt_save7 (s : State) {k : Nat} (h : k < 4183) : byteAt s.saveSnapshot k = byteAt (s.saved7) k := by
  rw [byteAt_save8 s (by omega), saved8, byteAt_append_left]; rw [length_saved7]; exact h
theorem byteAt_save6 (s : State) {k : Nat} (h : k < 4182) : byteAt s.saveSnapshot k = byteAt (s.saved6) k := by
  rw [byteAt_save7 s (by omega), saved7, byteAt_append_left]; rw [length_saved6]; exact h
theorem byteAt_save5 (s : State) {k : Nat} (h : k < 4150) : byteAt s.saveSnapshot k = byteAt (s.saved5) k := by
  rw [byteAt_save6 s (by omega), saved6, byteAt_append_left]; rw [length_saved5]; exact h
theorem byteAt_save4 (s : State) {k : Nat} (h : k < 4149) : byteAt s.saveSnapshot k = byteAt (s.saved4) k := by
  rw [byteAt_save5 s (by omega), saved5, byteAt_append_left]; rw [length_saved4]; exact h
theorem byteAt_save3 (s : State) {k : Nat} (h : k < 4147) : byteAt s.saveSnapshot k = byteAt (s.saved3) k := by
  rw [byteAt_save4 s (by omega), saved4, byteAt_append_left]; rw [length_saved3]; exact h
theorem byteAt_save2 (s : State) {k : Nat} (h : k < 4145) : byteAt s.saveSnapshot k = byteAt (s.saved2) k := by
  rw [byteAt_save3 s (by omega), saved3, byteAt_append_left]; rw [length_saved2]; exact h
theorem byteAt_save1 (s : State) {k : Nat} (h : k < 4129) : byteAt s.saveSnapshot k = byteAt (s.saved1) k := by
  rw [byteAt_save2 s (by omega), saved2, byteAt_append_left]; rw [length_saved1]; exact h

/-! ### The sections -/

theorem save_header (s : State) : s.saveSnapshot.take 33 = snapshotHeader := by
  simp only [saveSnapshot, List.append_assoc]
  rw [List.take_left' snapshotHeader_length]

theorem save_mem (s : State) {a : Nat} (h : a < 4096) : byteAt s.saveSnapshot (33 + a) = s.memRead a := by
  rw [byteAt_save1 s (by omega), saved1, saved0, byteAt_append_right snapshotHeader_length]
  simp [byteAt, memBytes, h]

theorem save_V (s : State) {r : Nat} (h : r < 16) : byteAt s.saveSnapshot (4129 + r) = s.V[r] := by
  rw [byteAt_save2 s (by omega), saved2, byteAt_append_right s.length_saved1]
  simp [byteAt, h]

theorem save_I (s : State) : wordAt s.saveSnapshot 4145 = s.I := by
  unfold wordAt
  rw [byteAt_save3 s (by omega), byteAt_save3 s (by omega), saved3, byteAt_append_right (n := 4145) (k := 0) s.length_saved2,
    byteAt_append_right (k := 1) s.length_saved2]
  exact wordOfBytes_bytesOfWord _

theorem save_PC (s : State) : wordAt s.saveSnapshot 4147 = s.PC := by
  unfold wordAt
  rw [byteAt_save4 s (by omega), byteAt_save4 s (by omega), saved4, byteAt_append_right (n := 4147) (k := 0) s.length_saved3,
    byteAt_append_right (k := 1) s.length_saved3]
  exact wordOfBytes_bytesOfWord _

theorem save_SP (s : State) : byteAt s.saveSnapshot 4149 = BitVec.ofNat 8 s.SP.val := by
  rw [byteAt_save5 s (by omega), saved5, byteAt_append_right (n := 4149) (k := 0) s.length_saved4]
  simp [byteAt]

theorem save_stack (s : State) {k : Nat} (h : k < 16) : wordAt s.saveSnapshot (4150 + 2 * k) = s.stack[k] := by
  unfold wordAt
  rw [byteAt_save6 s (by omega), byteAt_save6 s (by omega), saved6, byteAt_append_right s.length_saved5, Nat.add_assoc,
    byteAt_append_right s.length_saved5]
  have := getElem_flatMap_wordBytes s.stack.toList k (by simpa using h)
  simp only [byteAt, List.getD_eq_getElem?_getD, this.1, this.2, Option.getD_some, Vector.getElem_toList]
  exact wordOfBytes_bytesOfWord _

theorem save_DT (s : State) : byteAt s.saveSnapshot 4182 = s.DT := by
  rw [byteAt_save7 s (by omega), saved7, byteAt_append_right (n := 4182) (k := 0) s.length_saved6]
  simp [byteAt]

theorem save_ST (s : State) : byteAt s.saveSnapshot 4183 = s.ST := by
  rw [byteAt_save8 s (by omega), saved8, byteAt_append_right (n := 4183) (k := 0) s.length_saved7]
  simp [byteAt]

end State

theorem getElem_flagByte (p : Bool) (i : Nat) (h : i < 8) : (flagByte p)[i] = (p && i == 0) := by
  cases p <;> simp [flagByte]
  cases i <;> simp

/-- Bit `7 - j` of a display byte is the pixel of column `j` of its group (R241). -/
theorem getLsbD_dispByte (g : Grid) (k j : Nat) (h : j < 8) :
    (dispByte g k).getLsbD (7 - j) = pixelAt g (k % 8 * 8 + j) (k / 8) := by
  unfold dispByte
  simp only [show List.range 8 = [0, 1, 2, 3, 4, 5, 6, 7] from rfl, List.foldl]
  interval_cases j <;> simp [getElem_flagByte]

theorem State.save_disp (s : State) {x y : Nat} (hx : x < 64) (hy : y < 32) :
    (byteAt s.saveSnapshot (4184 + 8 * y + x / 8)).getLsbD (7 - x % 8) = pixelAt s.disp x y := by
  rw [saveSnapshot_eq, saved9, Nat.add_assoc, byteAt_append_right s.length_saved8]
  have : byteAt ((List.range 256).map (dispByte s.disp)) (8 * y + x / 8) = dispByte s.disp (8 * y + x / 8) := by
    simp [byteAt, show 8 * y + x / 8 < 256 by omega]
  rw [this, getLsbD_dispByte _ _ _ (by omega)]
  congr 1 <;> omega

/-- The checks of R243, one by one. -/
theorem snapshotValid_iff (bs : List Byte) :
    snapshotValid bs = true ↔
      bs.length = 4440 ∧ bs.take 33 = snapshotHeader ∧ (wordAt bs 4147).toNat ≤ 0xFFF ∧ (byteAt bs 4149).toNat ≤ 16 ∧
        ∀ k, k < 16 → (wordAt bs (4150 + 2 * k)).toNat ≤ 0xFFF := by
  rw [snapshotValid, offPC_eq, offSP_eq, offStack_eq]
  simp only [Bool.and_eq_true, beq_iff_eq, decide_eq_true_eq, List.all_eq_true, List.mem_range, and_assoc]

/-- The snapshot of a state whose PC and stack are in range passes the checks of R243. -/
theorem State.snapshotValid_save (s : State) (h1 : s.PC.toNat ≤ 0xFFF) (h2 : ∀ k : Fin 16, s.stack[k].toNat ≤ 0xFFF) :
    snapshotValid s.saveSnapshot = true := by
  rw [snapshotValid_iff]
  refine ⟨s.saveSnapshot_eq ▸ s.length_saved9, s.save_header, by rw [s.save_PC]; exact h1, ?_, ?_⟩
  · rw [s.save_SP, BitVec.toNat_ofNat]; omega
  · intro k hk
    rw [s.save_stack hk]
    exact h2 ⟨k, hk⟩

/-! ### Restoring -/

/-- The memory a snapshot restores (R244). -/
theorem State.memRead_restoreSnapshot (s : State) (bs : List Byte) {a : Nat} (ha : a < 4096) :
    (s.restoreSnapshot bs).memRead a = byteAt bs (33 + a) := by
  have h := Memory.read_ofBytes (font := s.params.font) 0 ((List.range 4096).map fun k => byteAt bs (offMem + k)) a
    (by rw [List.length_map, List.length_range]; exact ha)
  rw [Nat.zero_add] at h
  simp only [memRead, restoreSnapshot, Nat.mod_eq_of_lt ha]
  rw [h, List.getElem_map, List.getElem_range, offMem_eq]

/-- The restored memory is in canonical form. -/
theorem State.restoreSnapshot_wf (s : State) (bs : List Byte) :
    Memory.wf s.params.font (s.restoreSnapshot bs).mem := by
  have h := Memory.wf_ofBytes (font := s.params.font) (a := 0)
    (bs := (List.range 4096).map fun k => byteAt bs (offMem + k)) (by rw [List.length_map, List.length_range])
  simp only [restoreSnapshot]
  exact h

end Sys2Proof.Machine
end

