-- ==== Sys2Proof/Tests/Slice0.lean ====
section
/-! SUPPORT. The model's own tests: the refused ill-formed terms, the words of every form written out bit by bit from
30_encoding.md R84, vectors of 95_test_vectors.md, and a witness for the hypotheses of every statement. -/

namespace Sys2Proof.Tests

open Sys2Proof.Machine

/-! ### Helpers -/

/-- The outcome is a next state that passes the check. -/
def nextMeets (o : Result) (p : State → Bool) : Bool :=
  match o with
  | .next t => p t
  | .fault _ => false
  | .refused _ => false

/-- The host operation succeeded with a state that passes the check. -/
def okMeets (o : Except HostError State) (p : State → Bool) : Bool :=
  match o with
  | .ok t => p t
  | .error _ => false

/-- The state after reset with three registers set: `V[0] = a`, `V[1] = b`, `VF = f`. -/
def withRegs (a b f : Byte) : State := ((State.reset.setV 0#4 a).setV 1#4 b).setV vf f

/-- The state after reset at the address `a`. -/
def atPc (a : Word) : State := { State.reset with PC := a }

/-- The state after reset with the index register at `a`. -/
def atIndex (a : Word) : State := { State.reset with I := a }

/-- A state with other parameters. -/
def withParams (s : State) (p : Params) : State := { s with params := p }

/-! ### WellFormed: the ill-formed terms are refused (R75) -/

theorem test_sys_0E0_is_ill_formed : Instr.wellFormed (.sys 0x0E0#12) = false := by decide
theorem test_sys_0EE_is_ill_formed : Instr.wellFormed (.sys 0x0EE#12) = false := by decide
theorem test_sys_0E1_is_well_formed : Instr.wellFormed (.sys 0x0E1#12) = true := by decide

/-! ### Decode: one word of every form, bit by bit (R84) -/

theorem test_decode_control :
    decodeWord false 0b0000000100100011#16 = .ok (.sys 0x123#12) ∧
    decodeWord false 0b0000000011101110#16 = .ok .ret ∧
    decodeWord false 0b0001101010111100#16 = .ok (.jp 0xABC#12) ∧
    decodeWord false 0b0010001000010000#16 = .ok (.call 0x210#12) ∧
    decodeWord false 0b0011010101100111#16 = .ok (.seImm 5#4 0x67#8) ∧
    decodeWord false 0b0100010101100111#16 = .ok (.sneImm 5#4 0x67#8) ∧
    decodeWord false 0b0101001101110000#16 = .ok (.seReg 3#4 7#4) ∧
    decodeWord false 0b1001001101110000#16 = .ok (.sneReg 3#4 7#4) ∧
    decodeWord false 0b1011001100000001#16 = .ok (.jpV0 0x301#12) := by decide

theorem test_decode_alu :
    decodeWord false 0b0110101001011100#16 = .ok (.ldImm 0xA#4 0x5C#8) ∧
    decodeWord false 0b0111101001011100#16 = .ok (.addImm 0xA#4 0x5C#8) ∧
    decodeWord false 0b1000000100100000#16 = .ok (.ldReg 1#4 2#4) ∧
    decodeWord false 0b1000000100100001#16 = .ok (.orReg 1#4 2#4) ∧
    decodeWord false 0b1000000100100010#16 = .ok (.andReg 1#4 2#4) ∧
    decodeWord false 0b1000000100100011#16 = .ok (.xorReg 1#4 2#4) ∧
    decodeWord false 0b1000000100100100#16 = .ok (.addReg 1#4 2#4) ∧
    decodeWord false 0b1000000100100101#16 = .ok (.sub 1#4 2#4) ∧
    decodeWord false 0b1000000100100110#16 = .ok (.shr 1#4 2#4) ∧
    decodeWord false 0b1000000100100111#16 = .ok (.subn 1#4 2#4) ∧
    decodeWord false 0b1000000100101110#16 = .ok (.shl 1#4 2#4) ∧
    decodeWord false 0b1100010100001111#16 = .ok (.rnd 5#4 0x0F#8) := by decide

theorem test_decode_display :
    decodeWord false 0b0000000011100000#16 = .ok .cls ∧
    decodeWord false 0b1101000100100101#16 = .ok (.drw 1#4 2#4 5#4) := by decide

theorem test_decode_keypad :
    decodeWord false 0b1110010110011110#16 = .ok (.skp 5#4) ∧
    decodeWord false 0b1110010110100001#16 = .ok (.sknp 5#4) ∧
    decodeWord false 0b1111010100000111#16 = .ok (.ldVxDt 5#4) ∧
    decodeWord false 0b1111010100001010#16 = .ok (.ldVxK 5#4) ∧
    decodeWord false 0b1111010100010101#16 = .ok (.ldDtVx 5#4) ∧
    decodeWord false 0b1111010100011000#16 = .ok (.ldStVx 5#4) := by decide

theorem test_decode_index :
    decodeWord false 0b1010000100100011#16 = .ok (.ldI 0x123#12) ∧
    decodeWord false 0b1111010100011110#16 = .ok (.addI 5#4) ∧
    decodeWord false 0b1111010100101001#16 = .ok (.ldF 5#4) ∧
    decodeWord false 0b1111010100110011#16 = .ok (.ldB 5#4) ∧
    decodeWord false 0b1111010101010101#16 = .ok (.ldStore 5#4) ∧
    decodeWord false 0b1111010101100101#16 = .ok (.ldLoad 5#4) := by decide

/-- The table's numbering: one 16-bit word, its first byte the high one (R55, R72). -/
theorem test_decodeTableWord : decodeTableWord 16 0x2210 = some (.call 0x210#12) ∧ decodeTableWord 16 0xF000 = none := by decide

/-- Bytes after the word are left, and one byte is no word (R70). -/
theorem test_decodeBytes :
    decodeBytes false [0x12#8, 0x04#8, 0x60#8] = .ok (.jp 0x204#12, [0x60#8]) ∧
    decodeBytes false [0x12#8] = .error .truncated := by decide

/-! ### Control flow (95_test_vectors.md 2.2) -/

theorem test_sys_fatal : nextMeets (exec (.sys 0x123#12) State.reset) (fun t =>
    t.halted && t.errKind == .unknownOpcode && t.errPc == 0x200#16 && t.errWord == 0x0123#16 && t.PC == 0x200#16) = true := by
  decide
theorem test_jp_B2 : nextMeets (exec (.jp 0xABC#12) State.reset) (fun t => t.PC == 0xABC#16) = true := by decide
theorem test_call_B4 : nextMeets (exec (.call 0x400#12) (atPc 0xFFE#16)) (fun t =>
    t.stack[0] == 0#16 && t.SP == 1 && t.PC == 0x400#16) = true := by decide
theorem test_call_B5 : nextMeets (exec (.call 0x400#12) { atPc 0x300#16 with SP := 16 }) (fun t =>
    t.halted && t.errKind == .stackOverflow && t.SP == 16 && t.PC == 0x300#16 && t.errWord == 0x2400#16) = true := by decide
theorem test_ret_B6 :
    nextMeets (exec .ret { atPc 0x212#16 with SP := 2, stack := (State.reset.stack.set 0 0x206#16).set 1 0x30A#16 })
      (fun t => t.SP == 1 && t.PC == 0x30A#16 && t.stack[1] == 0x30A#16) = true := by decide
theorem test_ret_B7 : nextMeets (exec .ret State.reset) (fun t =>
    t.halted && t.errKind == .stackUnderflow && t.SP == 0 && t.PC == 0x200#16) = true := by decide
theorem test_seImm_B16 : nextMeets (exec (.seImm 5#4 0#8) (atPc 0xFFC#16)) (fun t => t.PC == 0#16) = true := by decide
theorem test_sneImm_B10 : nextMeets (exec (.sneImm 0#4 0x42#8) (withRegs 0x42#8 0#8 0#8)) (fun t => t.PC == 0x202#16) = true := by
  decide
theorem test_seReg_B12 : nextMeets (exec (.seReg 0#4 1#4) (withRegs 0x99#8 0x99#8 0#8)) (fun t => t.PC == 0x204#16) = true := by
  decide
theorem test_sneReg_B14 : nextMeets (exec (.sneReg 0#4 1#4) (withRegs 0x99#8 0x98#8 0#8)) (fun t => t.PC == 0x204#16) = true := by
  decide
theorem test_jpV0_B18 : nextMeets (exec (.jpV0 0xFFF#12) (withRegs 0xFF#8 0#8 0#8)) (fun t => t.PC == 0x0FE#16) = true := by
  decide
theorem test_jpV0_B19 :
    nextMeets (exec (.jpV0 0xFFF#12) (withParams (withRegs 0xFF#8 0#8 0#8) { defaultParams with jumpOverflow := .fault }))
      (fun t => t.halted && t.errKind == .addressOutOfRange && t.PC == 0x200#16 && t.errWord == 0xBFFF#16) = true := by decide

/-! ### Registers and ALU (95_test_vectors.md 2.3) -/

theorem test_ldImm_A1 : nextMeets (exec (.ldImm 0xA#4 0x5C#8) State.reset) (fun t =>
    t.getV 0xA#4 == 0x5C#8 && t.PC == 0x202#16) = true := by decide
theorem test_addImm_A2 : nextMeets (exec (.addImm 1#4 1#8) (withRegs 0#8 0xFF#8 7#8)) (fun t =>
    t.getV 1#4 == 0#8 && t.getV vf == 7#8) = true := by decide
theorem test_ldReg_A4 : nextMeets (exec (.ldReg 0#4 1#4) (withRegs 0#8 0x33#8 0#8)) (fun t => t.getV 0#4 == 0x33#8) = true := by
  decide
theorem test_orReg_A5 : nextMeets (exec (.orReg 0#4 1#4) (withRegs 0x0F#8 0xF0#8 0x55#8)) (fun t =>
    t.getV 0#4 == 0xFF#8 && t.getV vf == 0x55#8) = true := by decide
theorem test_andReg_A6 : nextMeets (exec (.andReg 0#4 1#4) (withRegs 0x3C#8 0x0F#8 0#8)) (fun t =>
    t.getV 0#4 == 0x0C#8) = true := by decide
theorem test_xorReg_A7 : nextMeets (exec (.xorReg 0#4 1#4) (withRegs 0xFF#8 0x0F#8 0#8)) (fun t =>
    t.getV 0#4 == 0xF0#8) = true := by decide
theorem test_addReg_S1 : nextMeets (exec (.addReg 0#4 1#4) (withRegs 0xFF#8 1#8 0#8)) (fun t =>
    t.getV 0#4 == 0#8 && t.getV vf == 1#8 && t.PC == 0x202#16) = true := by decide
theorem test_addReg_A11 : nextMeets (exec (.addReg vf 0#4) (withRegs 0x80#8 0#8 0x80#8)) (fun t => t.getV vf == 1#8) = true := by
  decide
theorem test_sub_A14 : nextMeets (exec (.sub 0#4 1#4) (withRegs 0#8 1#8 7#8)) (fun t =>
    t.getV 0#4 == 0xFF#8 && t.getV vf == 0#8) = true := by decide
theorem test_sub_A13 : nextMeets (exec (.sub 0#4 1#4) (withRegs 5#8 5#8 0#8)) (fun t =>
    t.getV 0#4 == 0#8 && t.getV vf == 1#8) = true := by decide
theorem test_shr_A19 : nextMeets (exec (.shr 0#4 1#4) (withRegs 3#8 0xFF#8 0#8)) (fun t =>
    t.getV 0#4 == 1#8 && t.getV vf == 1#8) = true := by decide
theorem test_shr_A20 :
    nextMeets (exec (.shr 0#4 1#4) (withParams (withRegs 3#8 0xFF#8 0#8) { defaultParams with shiftSource := .vy }))
      (fun t => t.getV 0#4 == 0x7F#8 && t.getV vf == 1#8) = true := by decide
theorem test_subn_A17 : nextMeets (exec (.subn 0#4 1#4) (withRegs 1#8 0#8 7#8)) (fun t =>
    t.getV 0#4 == 0xFF#8 && t.getV vf == 0#8) = true := by decide
theorem test_shl_A21 : nextMeets (exec (.shl 0#4 1#4) (withRegs 0xFF#8 0#8 0#8)) (fun t =>
    t.getV 0#4 == 0xFE#8 && t.getV vf == 1#8) = true := by decide
theorem test_shl_A22 :
    nextMeets (exec (.shl 0#4 1#4) (withParams (withRegs 1#8 0x80#8 0#8) { defaultParams with shiftSource := .vy }))
      (fun t => t.getV 0#4 == 0#8 && t.getV vf == 1#8) = true := by decide

/-- A25: with kk = 0 the register is 0 whatever the draw is. -/
theorem test_rnd_A25 (s : State) : nextMeets (exec (.rnd 5#4 0#8) s) (fun t => t.getV 5#4 == 0#8) = true := by
  simp [exec, execRnd, nextMeets]

/-! ### Display (95_test_vectors.md 2.4) -/

theorem test_cls_D1 : nextMeets (exec .cls { State.reset with dirty := false, disp := flipPixel blankGrid 3 4 }) (fun t =>
    t.disp == blankGrid && t.dirty) = true := by decide +kernel

/-- S7 draws across the right edge; S8 draws it again. -/
theorem test_drw_S7_S8 :
    nextMeets (exec (.drw 0#4 1#4 1#4) (((atIndex 0x300#16).memWrite 0x300 0xFF#8).setV 0#4 60#8)) (fun t =>
      (List.range 64).all (fun x => pixelAt t.disp x 0 == decide (x ∈ [60, 61, 62, 63, 0, 1, 2, 3])) && t.getV vf == 0#8 &&
        nextMeets (exec (.drw 0#4 1#4 1#4) t) (fun u => u.disp == blankGrid && u.getV vf == 1#8)) = true := by decide +kernel

/-- D7: VF is read as the origin's column before it is written. -/
theorem test_drw_D7 :
    nextMeets (exec (.drw vf 0#4 1#4) ((((atIndex 0x300#16).memWrite 0x300 0x80#8).setV 0#4 3#8).setV vf 5#8)) (fun t =>
      t.disp == flipPixel blankGrid 5 3 && t.getV vf == 0#8) = true := by decide +kernel

/-! ### Keypad and timers (95_test_vectors.md 2.5) -/

theorem test_skp_K1 :
    nextMeets (exec (.skp 0#4) { withRegs 0x15#8 0#8 0#8 with key := noKeys.set 5 true }) (fun t => t.PC == 0x204#16) = true := by
  decide
theorem test_sknp_K3 : nextMeets (exec (.sknp 0#4) (withRegs 5#8 0#8 0#8)) (fun t => t.PC == 0x204#16) = true := by decide

/-- K4: a key held at the first execution only starts the wait. -/
theorem test_ldVxK_K4 :
    nextMeets (exec (.ldVxK 2#4) { State.reset with key := noKeys.set 3 true }) (fun t =>
      t.waitActive && t.waitPrev[3] && t.PC == 0x200#16) = true := by decide

/-- K8: the lowest of two new presses. -/
theorem test_ldVxK_K8 :
    nextMeets (exec (.ldVxK 2#4) { State.reset with waitActive := true, key := (noKeys.set 7 true).set 2 true }) (fun t =>
      t.getV 2#4 == 2#8 && !t.waitActive && t.waitPrev == noKeys && t.PC == 0x202#16) = true := by decide

theorem test_ldVxDt_K9 : nextMeets (exec (.ldVxDt 3#4) { State.reset with DT := 0x3C#8 }) (fun t =>
    t.getV 3#4 == 0x3C#8) = true := by decide
theorem test_ldDtVx_K10 : nextMeets (exec (.ldDtVx 4#4) { State.reset with DT := 0x10#8 }) (fun t => t.DT == 0#8) = true := by decide
theorem test_ldStVx_K11 : nextMeets (exec (.ldStVx 0#4) (withRegs 0x0A#8 0#8 0#8)) (fun t => t.ST == 0x0A#8 && !t.tone) = true := by
  decide
theorem test_timerTick_K12_K14 :
    (State.timerTick { State.reset with ST := 0x0A#8 }).tone = true ∧
    (State.timerTick { State.reset with DT := 1#8, ST := 1#8, tone := true }).tone = false ∧
    (State.timerTick State.reset).DT = 0#8 := by decide

/-- K15 and K16: the owed ticks of 1/60 s and of 1/1000 s and 2/1000 s at 500 ticks a second. -/
theorem test_owed_K15_K16 :
    State.instrOwed { State.reset with tTotal := mkRat 1 60 } = 8 ∧ State.timerOwed { State.reset with tTotal := mkRat 1 60 } = 1 ∧
    State.instrOwed { State.reset with tTotal := mkRat 1 1000 } = 0 ∧
    State.instrOwed { State.reset with tTotal := mkRat 2 1000 } = 1 := by decide

/-! ### Index and memory (95_test_vectors.md 2.6) -/

theorem test_ldI_M1 : nextMeets (exec (.ldI 0x123#12) (atIndex 0xF000#16)) (fun t => t.I == 0x123#16) = true := by decide
theorem test_addI_M3 : nextMeets (exec (.addI 0#4) { withRegs 1#8 0#8 7#8 with I := 0xFFF#16 }) (fun t =>
    t.I == 0x1000#16 && t.getV vf == 7#8) = true := by decide
theorem test_addI_M5 : nextMeets (exec (.addI 0#4) { withRegs 1#8 0#8 0#8 with I := 0xFFFF#16 }) (fun t => t.I == 0#16) = true := by
  decide
theorem test_ldF_M7 : nextMeets (exec (.ldF 0#4) (withRegs 0x1A#8 0#8 0#8)) (fun t => t.I == 0x32#16) = true := by decide
theorem test_ldB_M9 : nextMeets (exec (.ldB 0#4) { withRegs 0xFE#8 0#8 0#8 with I := 0x300#16 }) (fun t =>
    t.memRead 0x300 == 2#8 && t.memRead 0x301 == 5#8 && t.memRead 0x302 == 4#8) = true := by decide
theorem test_ldB_M12 : nextMeets (exec (.ldB 0#4) { withRegs 0xFF#8 0#8 0#8 with I := 0xFFE#16 }) (fun t =>
    t.memRead 0xFFE == 2#8 && t.memRead 0xFFF == 5#8 && t.memRead 0 == 5#8) = true := by decide
theorem test_ldStore_M13 : nextMeets (exec (.ldStore 1#4) { withRegs 0x11#8 0x22#8 0#8 with I := 0x400#16 }) (fun t =>
    t.memRead 0x400 == 0x11#8 && t.memRead 0x401 == 0x22#8 && t.memRead 0x402 == 0#8 && t.I == 0x400#16) = true := by decide
theorem test_ldStore_M14 :
    nextMeets (exec (.ldStore 1#4) (withParams { withRegs 0x11#8 0x22#8 0#8 with I := 0x400#16 }
      { defaultParams with indexPolicy := .increment })) (fun t => t.I == 0x402#16) = true := by decide
theorem test_ldLoad_M17 : nextMeets (exec (.ldLoad 4#4) State.reset) (fun t =>
    t.getV 0#4 == 0xF0#8 && t.getV 1#4 == 0x90#8 && t.getV 4#4 == 0xF0#8 && t.getV 5#4 == 0#8) = true := by decide
theorem test_ldLoad_M4 : nextMeets (exec (.ldLoad 0#4) (atIndex 0x1000#16)) (fun t => t.getV 0#4 == 0xF0#8) = true := by decide

/-! ### Fetch, step, reset and host operations -/

/-- B22: an odd PC is legal and the fetch wraps. -/
theorem test_fetch_B22 :
    ({ ((State.reset.memWrite 0xFFF 0x12#8).memWrite 0 0#8) with PC := 0xFFF#16 } : State).fetch = 0x1200#16 := by decide

/-- The step runs the placed instruction, counts it and sets the time it was due. -/
theorem test_step_placed : nextMeets (step (State.reset.withFetchWord 16 0x6105)) (fun t =>
    t.getV 1#4 == 5#8 && t.PC == 0x202#16 && t.instrDone == 1 && t.timerDone == 0 && t.tTotal == mkRat 1 500) = true := by decide

/-- From reset with nothing placed the word at 0x200 is 0x0000, which halts the run (E4, H4). -/
theorem test_step_reset : nextMeets (step State.reset) (fun t =>
    t.halted && t.errKind == .unknownOpcode && t.errPc == 0x200#16 && t.errWord == 0#16) = true := by decide

theorem test_font_glyph_A :
    (List.range 5).map (fun k => State.reset.memRead (0x32 + k)) = [0xF0#8, 0x90#8, 0xF0#8, 0x90#8, 0x90#8] := by decide

/-- H1 and H5. -/
theorem test_loadRom_H5 :
    okMeets (State.loadRom { State.reset with halted := true, errKind := .stackOverflow } [0x12#8, 0x00#8]) (fun t =>
      t.memRead 0x200 == 0x12#8 && t.memRead 0x201 == 0#8 && t.memRead 0 == 0xF0#8 && t.PC == 0x200#16 && !t.halted) = true := by decide

/-- H8: the header of a snapshot. -/
theorem test_snapshot_header_H8 : snapshotHeader =
    [0x43#8, 0x38#8, 0x53#8, 0x53#8, 0x01#8, 0x09#8, 0x01#8, 0x10#8, 0x00#8, 0x02#8, 0x00#8, 0x10#8, 0x03#8, 0x00#8, 0x02#8, 0x04#8,
     0x00#8, 0x02#8, 0x05#8, 0x00#8, 0x01#8, 0x06#8, 0x00#8, 0x20#8, 0x07#8, 0x00#8, 0x01#8, 0x08#8, 0x00#8, 0x01#8, 0x09#8, 0x01#8,
     0x00#8] := by decide

/-- H9: where a pixel stands in the payload. -/
theorem test_snapshot_pixel_H9 : dispByte (flipPixel blankGrid 9 1) 9 = 0x40#8 := by decide +kernel

/-! ### Witnesses: the hypotheses of each statement are met by a concrete state and operands -/

theorem witness_wellFormed : Instr.wellFormed (.sys 0xFFF#12) = true ∧ Instr.wellFormed (.drw vf vf 0xF#4) = true := by decide

/-- Both directions of the reserved-word statement: words next to a listed function decode or not. -/
theorem witness_reserved :
    decodeWord true 0x5120#16 = .ok (.seReg 1#4 2#4) ∧ decodeWord true 0x512F#16 = .error (.lowNibble 0x512F#16) ∧
    decodeWord false 0x800F#16 = .error (.aluFunction 0x800F#16) ∧ decodeWord false 0xE09D#16 = .error (.keyFunction 0xE09D#16) ∧
    decodeWord false 0xF066#16 = .error (.miscFunction 0xF066#16) := by decide

theorem witness_reset_inv : State.reset.Inv where
  memCanonical := by decide
  pcInRange := by decide
  stackInRange := by decide
  waitsAtKeyWait := by decide
  errorOnlyHalted := by decide

theorem witness_reset_onTime : State.reset.OnTime := by
  rw [onTime_iff]; decide

/-- A state in the wait at an LD V0, K meets the invariants. -/
theorem witness_waiting_inv : State.Inv { State.reset.placeWord 0xF00A#16 with waitActive := true } where
  memCanonical := by decide
  pcInRange := by decide
  stackInRange := by decide
  waitsAtKeyWait := fun _ => ⟨0#4, by decide⟩
  errorOnlyHalted := by decide

theorem witness_stepRunsTheDecoded :
    (State.reset.withFetchWord 16 0x6105).halted = false ∧
    (State.reset.withFetchWord 16 0x6105).decoded = .ok (.ldImm 1#4 5#8) ∧
    ∃ t, exec (.ldImm 1#4 5#8) (State.reset.withFetchWord 16 0x6105) = .next t := ⟨by decide, by decide, _, rfl⟩

theorem witness_stepRunsThePlaced :
    Memory.wf State.reset.params.font State.reset.mem ∧ Instr.wellFormed (.call 0x210#12) = true := by decide

/-- An Unknown word under each policy. -/
theorem witness_unknownWord :
    (State.reset.placeWord 0x8008#16).halted = false ∧
    (State.reset.placeWord 0x8008#16).decoded = .error (.aluFunction 0x8008#16) ∧
    (State.reset.placeWord 0x8008#16).params.unknownOpcode = .fatal ∧
    (withParams (State.reset.placeWord 0x8008#16) { defaultParams with unknownOpcode := .skip }).decoded =
      .error (.aluFunction 0x8008#16) := by decide

theorem witness_halted : ({ State.reset with halted := true } : State).halted = true := rfl

/-- A step and every kind of host operation answer a next state from reset. -/
theorem witness_step : ∃ t, step State.reset = .next t := by
  obtain ⟨u, h, -⟩ := instrTick_cases State.reset
  exact ⟨u.retire, by simp [step, stepTick, h]⟩
theorem witness_hostOp : ∃ t, hostOp (.loadRom [0x12#8, 0x00#8]) State.reset = .next t := ⟨_, rfl⟩

theorem witness_iterate (dt : NNRat) (s : State) : ∃ t, iterate dt s = .next t := by
  obtain ⟨u, h, -⟩ := runInstrTicks_fields (s.addTime dt).instrOwed (s.addTime dt)
  exact ⟨_, by rw [iterate, h, mapNext_next]⟩

/-- Two iterations from reset. -/
theorem witness_iterateAll : ∃ t, iterateAll [1 / 120, 1 / 120] State.reset = .next t := by
  obtain ⟨u, hu⟩ := witness_iterate (1 / 120) State.reset
  obtain ⟨v, hv⟩ := witness_iterate (1 / 120) u
  exact ⟨v, by simp only [iterateAll, hu, hv, onNext_next]⟩

/-- A timer at 255, DT or ST, is not 0 one tick before and is 0 at and after the 255th. -/
theorem witness_timerAt255 :
    (runTimerTicks 254 { State.reset with DT := 255#8 }).DT = 1#8 ∧ (runTimerTicks 255 { State.reset with DT := 255#8 }).DT = 0#8 ∧
    (runTimerTicks 256 { State.reset with DT := 255#8 }).DT = 0#8 ∧
    (runTimerTicks 254 { State.reset with ST := 255#8 }).ST = 1#8 ∧ (runTimerTicks 255 { State.reset with ST := 255#8 }).ST = 0#8 ∧
    (runTimerTicks 256 { State.reset with ST := 255#8 }).ST = 0#8 := by decide +kernel

/-- Times that owe no timer tick and one, the two cases of the tone after an iteration. -/
theorem witness_timerOwed :
    State.timerOwed { State.reset with tTotal := mkRat 1 120 } = 0 ∧
    State.timerOwed { State.reset with tTotal := mkRat 1 60 } = 1 := by decide

/-- The largest ROM that fits and the least that does not (H2, H3). -/
theorem witness_romSizes : ¬ 0xE00 < (List.replicate 3584 (1#8 : Byte)).length ∧ 0xE00 < (List.replicate 3585 (1#8 : Byte)).length := by
  rw [List.length_replicate, List.length_replicate]; decide

theorem witness_canonical :
    Memory.wf standardFont [(0x200, 0x12#8), (0xFFF, 0x01#8)] ∧ Memory.wf standardFont [] ∧
    ¬ Memory.wf standardFont [(0x200, 0x00#8)] := by decide

theorem witness_snapshotValid : ∃ t, State.reset.loadSnapshot State.reset.saveSnapshot = .ok t :=
  ⟨_, if_pos (State.reset.snapshotValid_save (by decide) (by decide))⟩

/-- H10 to H13, and a stack slot out of range: each check alone refuses. -/
theorem witness_snapshotRefused :
    snapshotValid (State.reset.saveSnapshot.set 4 2#8) = false ∧ snapshotValid (State.reset.saveSnapshot.take 4439) = false ∧
    0xFFF < (wordAt (State.reset.saveSnapshot.set 4147 0x10#8) 4147).toNat ∧
    16 < (byteAt (State.reset.saveSnapshot.set 4149 0x11#8) 4149).toNat ∧
    0xFFF < (wordAt (State.reset.saveSnapshot.set 4180 0x10#8) (4150 + 2 * 15)).toNat := by decide +kernel

/-- CALL at each end of the stack pointer's range, RET at each end. -/
theorem witness_stackPointer :
    ({ State.reset with SP := 16 } : State).SP.val = 16 ∧ ({ State.reset with SP := 15 } : State).SP.val < 16 ∧
    State.reset.SP.val < 16 ∧ State.reset.SP.val = 0 ∧ ({ State.reset with SP := 1 } : State).SP.val = (0 : Fin 16).val + 1 ∧
    ({ State.reset with SP := 16 } : State).SP.val = (15 : Fin 16).val + 1 ∧
    (∀ k : Fin 16, State.reset.stack[k].toNat ≤ 0xFFF) := by decide

theorem witness_retAfterCall : ∃ t, State.reset.SP.val = (0 : Fin 16).val ∧ exec (.call 0x300#12) State.reset = .next t :=
  ⟨_, rfl, rfl⟩

/-- Both outcomes of each skip's condition. -/
theorem witness_skips :
    State.reset.getV 1#4 = 0#8 ∧ State.reset.getV 1#4 ≠ 1#8 ∧ State.reset.getV 0#4 = State.reset.getV 1#4 ∧
    (withRegs 1#8 2#8 0#8).getV 0#4 ≠ (withRegs 1#8 2#8 0#8).getV 1#4 ∧
    ({ State.reset with key := noKeys.set 5 true } : State).keyDown 5#4 = true ∧ State.reset.keyDown 5#4 = false ∧
    (5#4).toNat = ((withRegs 0x15#8 0#8 0#8).getV 0#4).toNat % 16 := by decide

/-- JP V0: the largest sum that does not overflow, the least that does, and the policy. -/
theorem witness_jpV0 :
    ¬ 0xFFF < ((withRegs 0x0F#8 0#8 0#8).getV 0#4).toNat + (0xFF0#12).toNat ∧
    0xFFF < ((withRegs 0x10#8 0#8 0#8).getV 0#4).toNat + (0xFF0#12).toNat ∧
    (withParams (withRegs 0x10#8 0#8 0#8) { defaultParams with jumpOverflow := .fault }).params.jumpOverflow = .fault ∧
    State.reset.params.jumpOverflow ≠ .fault := by decide

/-- Both values of every other policy. -/
theorem witness_policies :
    State.reset.params.sysPolicy = .fatal ∧ (withParams State.reset { defaultParams with sysPolicy := .nop }).params.sysPolicy = .nop ∧
    State.reset.params.shiftSource = .vx ∧
    (withParams State.reset { defaultParams with shiftSource := .vy }).params.shiftSource ≠ .vx ∧
    State.reset.params.indexPolicy = .unchanged ∧
    (withParams State.reset { defaultParams with indexPolicy := .increment }).params.indexPolicy = .increment := by decide

/-- Registers other than VF, and VF itself. -/
theorem witness_registers : (0#4 : RegIdx) ≠ vf ∧ (0xE#4 : RegIdx) ≠ vf ∧ ¬ (0xF#4 : RegIdx) ≠ vf := by decide

/-- Two draws of one sprite, on a blank display, with a set bit. -/
theorem witness_drawTwice :
    (∃ t u, exec (.drw 0#4 1#4 1#4) State.reset = .next t ∧ exec (.drw 0#4 1#4 1#4) t = .next u) ∧
    (∀ px py, pixelAt State.reset.disp px py = false) ∧
    ∃ r c, r < (1#4 : BitVec 4).toNat ∧ c < 8 ∧ (State.reset.memRead (State.reset.I.toNat + r)).getLsbD c = true :=
  ⟨⟨_, _, rfl, rfl⟩, fun px py => by simp [pixelAt, State.reset], 0, 7, by decide, by decide, by decide⟩

/-- A state in the key wait: `prev` at the last poll, `now` at this one. -/
def waiting (prev now : Keys) : State := { State.reset with waitActive := true, waitPrev := prev, key := now }

/-- LD Vx, K: not waiting; waiting with no new press, a held key among them; waiting with the first and the last key new. -/
theorem witness_keyWait :
    State.reset.waitActive = false ∧
    ((waiting (noKeys.set 3 true) (noKeys.set 3 true)).waitActive = true ∧
      ∀ k : Fin 16, ¬((waiting (noKeys.set 3 true) (noKeys.set 3 true)).key[k] = true ∧
        (waiting (noKeys.set 3 true) (noKeys.set 3 true)).waitPrev[k] = false)) ∧
    ((waiting noKeys (noKeys.set 0 true)).key[(0 : Fin 16)] = true ∧ (waiting noKeys (noKeys.set 0 true)).waitPrev[(0 : Fin 16)] = false) ∧
    ((waiting noKeys (noKeys.set 15 true)).key[(15 : Fin 16)] = true ∧
      (waiting noKeys (noKeys.set 15 true)).waitPrev[(15 : Fin 16)] = false ∧
      ∀ j : Fin 16, j < 15 → ¬((waiting noKeys (noKeys.set 15 true)).key[j] = true ∧
        (waiting noKeys (noKeys.set 15 true)).waitPrev[j] = false)) := by decide

/-- Each of the four conditions is entered by some instruction. -/
theorem witness_fatal :
    nextMeets (exec (.sys 0#12) State.reset) (fun t => t.halted && t.errKind == .unknownOpcode) = true ∧
    nextMeets (exec (.call 0#12) { State.reset with SP := 16 }) (fun t => t.halted && t.errKind == .stackOverflow) = true ∧
    nextMeets (exec .ret State.reset) (fun t => t.halted && t.errKind == .stackUnderflow) = true ∧
    nextMeets (exec (.jpV0 0xFF0#12) (withParams (withRegs 0x10#8 0#8 0#8) { defaultParams with jumpOverflow := .fault }))
      (fun t => t.halted && t.errKind == .addressOutOfRange) = true := by decide

/-- A flag form and an ordinary form change VF. -/
theorem witness_vfChanges :
    nextMeets (exec (.addReg 0#4 1#4) (withRegs 0xFF#8 1#8 0#8)) (fun t => t.getV vf != 0#8) = true ∧
    nextMeets (exec (.ldImm vf 1#8) State.reset) (fun t => t.getV vf != State.reset.getV vf) = true := by decide

/-- CALL changes SP and a slot, RET changes SP; LD DT and LD ST change the timers; RND takes a draw. -/
theorem witness_writers :
    nextMeets (exec (.call 0x300#12) State.reset) (fun t => t.SP != State.reset.SP && t.stack != State.reset.stack) = true ∧
    nextMeets (exec .ret { State.reset with SP := 1 }) (fun t => t.SP != 1) = true ∧
    nextMeets (exec (.ldDtVx 0#4) (withRegs 1#8 0#8 0#8)) (fun t => t.DT != 0#8) = true ∧
    nextMeets (exec (.ldStVx 0#4) (withRegs 1#8 0#8 0#8)) (fun t => t.ST != 0#8) = true ∧
    nextMeets (exec (.rnd 0#4 0#8) State.reset) (fun t => t.draws != 0) = true ∧
    nextMeets (exec (.ldB 0#4) { withRegs 1#8 0#8 0#8 with I := 0x300#16 }) (fun t => t.mem != []) = true := by decide

/-- CLS sets a clear `dirty`; DRW changes the display; JP changes PC. -/
theorem witness_display :
    nextMeets (exec .cls { State.reset with dirty := false }) (fun t => t.dirty) = true ∧
    nextMeets (exec (.drw 0#4 0#4 1#4) State.reset) (fun t => pixelAt t.disp 0 0 != pixelAt State.reset.disp 0 0) = true ∧
    nextMeets (exec (.jp 0xFFF#12) State.reset) (fun t => t.PC != State.reset.PC) = true := by decide +kernel

end Sys2Proof.Tests
end

section
/-! SUPPORT. Proofs of the state's statements: canonical memory, what each instruction writes, and the invariants of
10_state.md R43 under every operation. -/

namespace Sys2Proof.Machine

/-! ### Canonical memory -/

namespace Memory

variable {font : Font} {m m' : List Host.Cell}

/-- A canonical list lists exactly the addresses that do not read as their reset contents. -/
theorem wf.mem_iff (hm : wf font m) {a : Nat} {b : Byte} :
    (a, b) ∈ m ↔ a < 4096 ∧ b ≠ resetByte font a ∧ read font m a = b := by
  obtain ⟨hsorted, hcells⟩ := hm
  constructor
  · intro h
    obtain ⟨ha, hb⟩ := hcells _ h
    exact ⟨ha, hb, by simp [read, lookup_of_mem hsorted h]⟩
  · rintro ⟨-, hb, hr⟩
    cases hl : lookup m a with
    | none => exact absurd (by simpa [read, hl] using hr.symm) hb
    | some c =>
      have hc : c = b := by simpa [read, hl] using hr
      exact hc ▸ lookup_mem hl

/-- Two canonical lists with the same bytes have the same cells, and each is in the order of its addresses. -/
theorem wf.ext (hm : wf font m) (hm' : wf font m') (h : ∀ a, a < 4096 → read font m a = read font m' a) : m = m' := by
  have : Std.Irrefl fun c d : Host.Cell => c.1 < d.1 := ⟨fun c => Nat.lt_irrefl c.1⟩
  have : Std.Antisymm fun c d : Host.Cell => c.1 < d.1 := ⟨fun _ _ h h' => absurd h' (Nat.lt_asymm h)⟩
  refine hm.1.eq_of_mem_iff hm'.1 fun ⟨a, b⟩ => ?_
  rw [hm.mem_iff, hm'.mem_iff]
  exact and_congr_right fun ha => by rw [h a ha]

end Memory

/-- Settles O23: a canonical memory lists the bytes that differ from their reset contents, in address order. -/
theorem canonicalMemoryIsDeterminedByItsBytes : Obligations.CanonicalMemoryIsDeterminedByItsBytes :=
  fun _ _ _ hm hm' h => Memory.wf.ext hm hm' h

/-! ### What an instruction writes -/

/-- The forms whose result goes to `V[x]` and that write no other register (10_state.md R22). -/
def setsRegister (x : RegIdx) (i : Instr) : Prop :=
  ∃ y kk, i = .ldImm x kk ∨ i = .addImm x kk ∨ i = .ldReg x y ∨ i = .orReg x y ∨ i = .andReg x y ∨ i = .xorReg x y ∨
    i = .ldVxDt x

/-- The arithmetic forms that write `V[x]` and then the flag (R22). -/
def setsFlag (x : RegIdx) (i : Instr) : Prop :=
  ∃ y, i = .addReg x y ∨ i = .sub x y ∨ i = .shr x y ∨ i = .subn x y ∨ i = .shl x y

/-- What the instruction `i` can do to the state `s`, by the operations that write it: refines `State.writtenByInstr` by
saying which instruction writes which field. -/
inductive Effect (s : State) : Instr → State → Prop where
  | raised (i : Instr) (k : ErrKind) : Effect s i (s.raise k (encode i))
  | moved (i : Instr) (a : Word) : Effect s i (s.setPc a)
  | called (nnn : Addr) (h : s.SP.val ≠ 16) : Effect s (.call nnn) ((s.pushReturn h).setPc (zext16 nnn))
  | returned : Effect s .ret s.popReturn
  | setRegister (i : Instr) (x : RegIdx) (v : Byte) (hi : setsRegister x i) : Effect s i (s.setV x v).advance
  | setFlag (i : Instr) (x : RegIdx) (v : Byte) (c : Bool) (hi : setsFlag x i) :
      Effect s i (s.setResultAndFlag x v c).advance
  | tookDraw (x : RegIdx) (kk : Byte) : Effect s (.rnd x kk) (s.takeDraw.setV x (s.entropyDraw &&& kk)).advance
  | cleared : Effect s .cls ({ s with disp := blankGrid, dirty := true } : State).advance
  | blitted (x y : RegIdx) (n : BitVec 4) (b : Blit) :
      Effect s (.drw x y n)
        (({ s with disp := b.grid, dirty := s.dirty || b.changed } : State).setV vf (flagByte b.collide)).advance
  | setIndex (i : Instr) (a : Word) : Effect s i (s.setI a).advance
  | setDelay (x : RegIdx) (v : Byte) : Effect s (.ldDtVx x) (s.setDT v).advance
  | setSound (x : RegIdx) (v : Byte) : Effect s (.ldStVx x) (s.setST v).advance
  | stored (i : Instr) (m : List Host.Cell) (a : Word) (hi : ∃ x, i = .ldB x ∨ i = .ldStore x)
      (hm : Memory.wf s.params.font s.mem → Memory.wf s.params.font m) :
      Effect s i ({ s with mem := m, I := a } : State).advance
  | loaded (x : RegIdx) (V : Vector Byte 16) (a : Word)
      (hV : ∀ q : RegIdx, x.toNat < q.toNat → ({ s with V := V } : State).getV q = s.getV q) :
      Effect s (.ldLoad x) ({ s with V := V, I := a } : State).advance
  | waitBegan (x : RegIdx) : Effect s (.ldVxK x) s.beginWait
  | waitPolled (x : RegIdx) : Effect s (.ldVxK x) s.pollWait
  | waitEnded (x : RegIdx) (v : Byte) : Effect s (.ldVxK x) (s.endWait.setV x v).advance

/-- Both outcomes of a conditional skip write PC only (10_state.md R25). -/
theorem Effect.skipped (s : State) (i : Instr) (c : Bool) : Effect s i (s.skipIf c) := by
  cases c
  · exact .moved i _
  · exact .moved i _

/-- R163: one execution of LD Vx, K starts the wait, polls the keypad or ends the wait. -/
theorem execLdVxK_effect {x : RegIdx} {s t : State} (h : execLdVxK x s = .next t) :
    t = s.beginWait ∨ t = s.pollWait ∨ ∃ v, t = (s.endWait.setV x v).advance := by
  unfold execLdVxK at h
  split at h
  · split at h
    · cases h; exact .inr (.inl rfl)
    · cases h; exact .inr (.inr ⟨_, rfl⟩)
  · cases h; exact .inl rfl

/-- R184: LD B writes memory only, in canonical form. -/
theorem execLdB_effect (x : RegIdx) {s t : State} (h : execLdB x s = .next t) : Effect s (.ldB x) t := by
  cases h
  exact .stored _ _ s.I ⟨x, .inl rfl⟩ fun hm =>
    State.indexWrite_wf (State.indexWrite_wf (State.indexWrite_wf hm 0 _) 1 _) 2 _

/-- R185: a block store writes memory, in canonical form, and I. -/
theorem execLdStore_effect (x : RegIdx) {s t : State} (h : execLdStore x s = .next t) : Effect s (.ldStore x) t := by
  cases h
  rw [s.storeRegs_frame]
  exact .stored _ _ _ ⟨x, .inr rfl⟩ fun hm => State.storeRegs_wf hm _

/-- R186: a block load writes the registers up to `V[x]` and I. -/
theorem execLdLoad_effect (x : RegIdx) {s t : State} (h : execLdLoad x s = .next t) : Effect s (.ldLoad x) t := by
  cases h
  rw [s.loadRegs_frame]
  exact .loaded x _ _ fun q hq => (s.loadRegs_read _ (by omega) q).trans (if_neg (by omega))

/-- Every next state that an instruction answers is one of its effects. -/
theorem exec_effect {i : Instr} {s t : State} (h : exec i s = .next t) : Effect s i t := by
  cases i with
  | sys nnn =>
    simp only [exec, execSys] at h
    split at h <;> cases h
    · exact .raised _ _
    · exact .moved _ _
  | cls => cases h; exact .cleared
  | ret =>
    simp only [exec, execRet] at h
    split at h <;> cases h
    · exact .raised _ _
    · exact .returned
  | jp nnn => cases h; exact .moved _ _
  | call nnn =>
    simp only [exec, execCall] at h
    split at h <;> cases h
    · exact .raised _ _
    · exact .called nnn _
  | jpV0 nnn =>
    simp only [exec, execJpV0] at h
    split at h <;> cases h
    · exact .raised _ _
    · exact .moved _ _
  | seImm | sneImm | seReg | sneReg | skp | sknp => cases h; exact .skipped s _ _
  | ldImm x kk | addImm x kk => cases h; exact .setRegister _ x _ ⟨0, kk, by simp⟩
  | ldReg x y | orReg x y | andReg x y | xorReg x y => cases h; exact .setRegister _ x _ ⟨y, 0, by simp⟩
  | ldVxDt x => cases h; exact .setRegister _ x _ ⟨0, 0, by simp⟩
  | addReg x y | sub x y | shr x y | subn x y | shl x y => cases h; exact .setFlag _ x _ _ ⟨y, by simp⟩
  | rnd x kk => cases h; exact .tookDraw x kk
  | drw x y n => cases h; exact .blitted x y n _
  | ldI | addI | ldF => cases h; exact .setIndex _ _
  | ldDtVx x => cases h; exact .setDelay x _
  | ldStVx x => cases h; exact .setSound x _
  | ldVxK x =>
    rcases execLdVxK_effect h with rfl | rfl | ⟨v, rfl⟩
    · exact .waitBegan x
    · exact .waitPolled x
    · exact .waitEnded x v
  | ldB x => exact execLdB_effect x h
  | ldStore x => exact execLdStore_effect x h
  | ldLoad x => exact execLdLoad_effect x h

/-! ### Which instruction writes which field -/

/-- R21: a register that a write changed is the register written. -/
theorem State.eq_of_setV_ne {s : State} {x q : RegIdx} {v : Byte} (hq : (s.setV x v).getV q ≠ s.getV q) : x = q := by
  rw [State.getV_setV] at hq
  by_contra hx
  exact hq (if_neg (Ne.symm hx))

namespace Effect

variable {i : Instr} {s t : State}

/-- R24: PC is as before or holds a masked value. -/
theorem pc_eq_or_masked (h : Effect s i t) : t.PC = s.PC ∨ ∃ a, t.PC = mask12 a := by
  cases h with
  | raised | waitBegan | waitPolled => exact .inl rfl
  | _ => exact .inr ⟨_, rfl⟩

/-- R27: SP moves by CALL and RET only. -/
theorem sp_eq_or_callRet (h : Effect s i t) : t.SP = s.SP ∨ (∃ nnn, i = .call nnn) ∨ i = .ret := by
  cases h with
  | called nnn => exact .inr (.inl ⟨nnn, rfl⟩)
  | returned => exact .inr (.inr rfl)
  | _ => exact .inl rfl

/-- R28: a stack slot is written by CALL only. -/
theorem stack_eq_or_call (h : Effect s i t) : t.stack = s.stack ∨ ∃ nnn, i = .call nnn := by
  cases h with
  | called nnn => exact .inr ⟨nnn, rfl⟩
  | _ => exact .inl rfl

/-- R29: DT is written by LD DT, Vx only. -/
theorem dt_eq_or_ldDtVx (h : Effect s i t) : t.DT = s.DT ∨ ∃ x, i = .ldDtVx x := by
  cases h with
  | setDelay x => exact .inr ⟨x, rfl⟩
  | _ => exact .inl rfl

/-- R30: ST is written by LD ST, Vx only. -/
theorem st_eq_or_ldStVx (h : Effect s i t) : t.ST = s.ST ∨ ∃ x, i = .ldStVx x := by
  cases h with
  | setSound x => exact .inr ⟨x, rfl⟩
  | _ => exact .inl rfl

/-- R133: a draw is taken by RND only. -/
theorem draws_eq_or_rnd (h : Effect s i t) : t.draws = s.draws ∨ ∃ x kk, i = .rnd x kk := by
  cases h with
  | tookDraw x kk => exact .inr ⟨x, kk, rfl⟩
  | _ => exact .inl rfl

/-- R22: VF changes by a flag form or as the register an instruction names. -/
theorem vf_changed (h : Effect s i t) (hne : t.getV vf ≠ s.getV vf) :
    (∃ x, setsFlag x i) ∨ (∃ x y n, i = .drw x y n) ∨ setsRegister vf i ∨ (∃ kk, i = .rnd vf kk) ∨ i = .ldVxK vf ∨
      i = .ldLoad vf := by
  cases h with
  | setFlag i x v c hi => exact .inl ⟨x, hi⟩
  | blitted x y n b => exact .inr (.inl ⟨x, y, n, rfl⟩)
  | setRegister i x v hi => obtain rfl := State.eq_of_setV_ne hne; simp [hi]
  | tookDraw x kk => obtain rfl := State.eq_of_setV_ne (s := s.takeDraw) hne; simp
  | waitEnded x v => obtain rfl := State.eq_of_setV_ne (s := s.endWait) hne; simp
  | loaded x V a hV =>
    have hx : ¬x.toNat < vf.toNat := fun hlt => hne (hV vf hlt)
    have : x = vf := BitVec.eq_of_toNat_eq (by simp at hx ⊢; omega)
    simp [this]
  | _ => exact absurd rfl hne

end Effect

/-- Settles O60: PC is kept or written through the mask. -/
theorem pcIsMaskedByEveryWrite : Obligations.PcIsMaskedByEveryWrite := by
  intro i s t h hne
  obtain ⟨a, ha⟩ := (exec_effect h).pc_eq_or_masked.resolve_left hne
  rw [ha, mask12_toNat]
  omega

/-- Settles O56, from the effects that write SP and the stack. -/
theorem onlyCallAndRetMoveTheStack : Obligations.OnlyCallAndRetMoveTheStack := fun _ _ _ h =>
  ⟨(exec_effect h).sp_eq_or_callRet.resolve_left, (exec_effect h).stack_eq_or_call.resolve_left⟩

/-- An instruction leaves the host's keypad and tone, the Timing Controller's fields and the parameters (R36, R39, R227). -/
theorem exec_hostAndClockFields {i : Instr} {s t : State} (h : exec i s = .next t) :
    t.key = s.key ∧ t.tone = s.tone ∧ t.tTotal = s.tTotal ∧ t.instrDone = s.instrDone ∧ t.timerDone = s.timerDone ∧
      t.params = s.params := by
  obtain ⟨u, hu, hcases⟩ := exec_cases i s
  obtain rfl : u = t := by simpa [hu] using h
  rcases hcases with ⟨k, rfl⟩ | hw
  · exact ⟨rfl, rfl, rfl, rfl, rfl, rfl⟩
  · rw [hw]
    exact ⟨rfl, rfl, rfl, rfl, rfl, rfl⟩

/-- Settles O57: the fields no instruction writes, and DT, ST and the draw count by their own effects. -/
theorem instructionsLeaveTheHostAndClockFields : Obligations.InstructionsLeaveTheHostAndClockFields := by
  intro i s t h
  obtain ⟨hkey, htone, htime, hinstr, htimer, hparams⟩ := exec_hostAndClockFields h
  have he := exec_effect h
  exact ⟨hkey, htone, htime, hinstr, htimer, hparams, he.dt_eq_or_ldDtVx.resolve_left, he.st_eq_or_ldStVx.resolve_left,
    he.draws_eq_or_rnd.resolve_left⟩

/-- Settles O55: the effects that change VF are those of the flag forms and of the forms that name VF. -/
theorem onlyTheFlagFormsWriteVfAsAFlag : Obligations.OnlyTheFlagFormsWriteVfAsAFlag := by
  intro i s t h hne
  rcases (exec_effect h).vf_changed hne with ⟨x, y, hi⟩ | ⟨x, y, n, rfl⟩ | ⟨y, kk, hi⟩ | ⟨kk, rfl⟩ | rfl | rfl
  · exact .inl ⟨x, y, by tauto⟩
  · exact .inl ⟨x, y, by simp⟩
  · exact .inr ⟨y, kk, by tauto⟩
  · exact .inr ⟨0, kk, by simp⟩
  · exact .inr ⟨0, 0, by simp⟩
  · exact .inr ⟨0, 0, by simp⟩

/-! ### The invariants under each operation

Where a proof is `{ hs with }`, or lists some clauses only, the operation writes no field that the other clauses read. -/

namespace State.Inv

variable {s : State}

theorem raise (hs : s.Inv) (k : ErrKind) (w : Word) : (s.raise k w).Inv :=
  { hs with errorOnlyHalted := fun h => absurd h (by simp) }

theorem setV (hs : s.Inv) (x : RegIdx) (v : Byte) : (s.setV x v).Inv := { hs with }

/-- Outside a key wait PC may move: R43 ties `wait_active` to the instruction at PC. -/
theorem setPc (hs : s.Inv) (hw : s.waitActive = false) (a : Word) : (s.setPc a).Inv :=
  { hs with
    pcInRange := by rw [setPc_PC, mask12_toNat]; omega
    waitsAtKeyWait := fun h => absurd (hw.symm.trans h) (by simp) }

theorem advance (hs : s.Inv) (hw : s.waitActive = false) : s.advance.Inv := hs.setPc hw _

/-- A popped return address goes to PC through the mask (R102). -/
theorem popReturn (hs : s.Inv) (hw : s.waitActive = false) : s.popReturn.Inv :=
  setPc (s := { s with SP := ⟨s.SP.val - 1, by omega⟩ }) { hs with } hw _

/-- A pushed return address is PCnext, which is in range (R104). -/
theorem pushReturn (hs : s.Inv) (h : s.SP.val ≠ 16) : (s.pushReturn h).Inv :=
  { hs with
    stackInRange := fun k => by
      simp only [pushReturn_stack, Fin.getElem_fin, Vector.getElem_set]
      split
      · rw [pcNext_toNat]; omega
      · exact hs.stackInRange k }

/-- Outside a key wait memory may change: R43 ties `wait_active` to the instruction at PC. -/
theorem setMemIndex (hs : s.Inv) (hw : s.waitActive = false) {m : List Host.Cell} (hm : Memory.wf s.params.font m)
    (a : Word) : ({ s with mem := m, I := a } : State).Inv :=
  { hs with
    memCanonical := hm
    waitsAtKeyWait := fun h => absurd (hw.symm.trans h) (by simp) }

theorem beginWait (hs : s.Inv) {x : RegIdx} (hd : s.decoded = .ok (.ldVxK x)) : s.beginWait.Inv :=
  { hs with waitsAtKeyWait := fun _ => ⟨x, hd⟩ }

theorem endWait (hs : s.Inv) : s.endWait.Inv :=
  { hs with waitsAtKeyWait := fun h => absurd h (by simp) }

theorem runTimerTicks (hs : s.Inv) (n : Nat) : (runTimerTicks n s).Inv := by
  obtain ⟨-, -, -, -, hframe⟩ := runTimerTicks_spec n s
  rw [hframe]
  exact { hs with }

theorem retire (hs : s.Inv) : s.retire.Inv := by
  rw [s.retire_frame.2]
  exact { hs with }

/-! ### Instruction ticks -/

/-- R43: no key wait stands at a word that is not LD Vx, K. -/
theorem waitActive_eq_false (hs : s.Inv) (hd : ∀ x, s.decoded ≠ .ok (.ldVxK x)) : s.waitActive = false := by
  rw [Bool.eq_false_iff]
  intro hw
  obtain ⟨x, hx⟩ := hs.waitsAtKeyWait hw
  exact hd x hx

/-- Executing LD Vx, K where it stands keeps the invariants: only the end of the wait moves PC. -/
theorem execLdVxK (hs : s.Inv) {x : RegIdx} {t : State} (hd : s.decoded = .ok (.ldVxK x))
    (h : execLdVxK x s = .next t) : t.Inv := by
  rcases execLdVxK_effect h with rfl | rfl | ⟨v, rfl⟩
  · exact hs.beginWait hd
  · exact { hs with }
  · exact (hs.endWait.setV x v).advance rfl

/-- Every effect of an instruction other than LD Vx, K keeps the invariants outside a key wait. -/
theorem of_effect (hs : s.Inv) (hw : s.waitActive = false) {i : Instr} {t : State} (hi : ∀ x, i ≠ .ldVxK x)
    (h : Effect s i t) : t.Inv := by
  cases h with
  | raised i k => exact hs.raise k _
  | moved i a => exact hs.setPc hw a
  | called nnn h => exact (hs.pushReturn h).setPc hw _
  | returned => exact hs.popReturn hw
  | setRegister i x v => exact (hs.setV x v).advance hw
  | setFlag i x v c => exact ((hs.setV x v).setV vf _).advance hw
  | stored i m a _ hm => exact (hs.setMemIndex hw (hm hs.memCanonical) a).advance hw
  | waitBegan x | waitPolled x | waitEnded x => exact absurd rfl (hi x)
  | _ => exact State.Inv.advance { hs with } hw

/-- Executing the instruction at PC keeps the invariants. -/
theorem exec (hs : s.Inv) {i : Instr} {t : State} (hd : s.decoded = .ok i) (h : exec i s = .next t) : t.Inv := by
  by_cases hi : ∃ x, i = .ldVxK x
  · obtain ⟨x, rfl⟩ := hi
    exact hs.execLdVxK hd h
  · have hi := not_exists.1 hi
    have hw := hs.waitActive_eq_false fun x => by simpa [hd] using hi x
    exact hs.of_effect hw hi (exec_effect h)

/-- Executing an Unknown word keeps the invariants: no key wait stands at one (R78). -/
theorem unknownWord (hs : s.Inv) {e : Reject} (hd : s.decoded = .error e) : s.unknownWord.Inv := by
  rcases s.unknownWord_cases with ⟨-, h⟩ | ⟨-, h⟩
  · rw [h]; exact hs.raise _ _
  · rw [h]; exact hs.advance (hs.waitActive_eq_false fun x => by simp [hd])

theorem instrTick (hs : s.Inv) {t : State} (h : instrTick s = .next t) : t.Inv := by
  unfold Machine.instrTick at h
  split at h
  · cases h; exact hs
  · split at h
    · next hd => exact hs.exec hd h
    · next hd => cases h; exact hs.unknownWord hd

theorem runInstrTicks (n : Nat) {s t : State} (hs : s.Inv) (h : runInstrTicks n s = .next t) : t.Inv := by
  induction n generalizing s with
  | zero => cases h; exact hs
  | succ n ih =>
    obtain ⟨u, hu, hrest⟩ := onNext_eq_next h
    exact ih (s := { u with instrDone := u.instrDone + 1 }) { hs.instrTick hu with } hrest

/-! ### Host operations -/

theorem iterate (hs : s.Inv) {dt : NNRat} {t : State} (h : iterate dt s = .next t) : t.Inv := by
  obtain ⟨u, hu, rfl⟩ := mapNext_eq_next h
  have hdt : (s.addTime dt).Inv := { hs with }
  exact (runInstrTicks _ hdt hu).runTimerTicks _

/-- Reset's values meet the invariants for every keypad, draw count and parameters (R42, R251). -/
theorem resetSession (s : State) : s.resetSession.Inv where
  memCanonical := ⟨List.Pairwise.nil, fun _ h => absurd h List.not_mem_nil⟩
  pcInRange := by simp [State.resetSession, State.reset]
  stackInRange := fun k => by simp [State.resetSession, State.reset]
  waitsAtKeyWait := fun h => absurd h (by simp [State.resetSession, State.reset])
  errorOnlyHalted := fun _ => rfl

/-- Outside a key wait bytes may be stored. -/
theorem memWriteList (hs : s.Inv) (hw : s.waitActive = false) (a : Nat) (bs : List Byte) : (s.memWriteList a bs).Inv := by
  rw [s.memWriteList_frame]
  exact hs.setMemIndex hw (memWriteList_wf hs.memCanonical a bs) s.I

/-- A snapshot that passes the checks of R243 has PC and the stack in range. -/
theorem restoreSnapshot (hs : s.Inv) {bs : List Byte} (hbs : snapshotValid bs = true) : (s.restoreSnapshot bs).Inv := by
  obtain ⟨-, -, hpc, -, hstack⟩ := (snapshotValid_iff bs).1 hbs
  constructor
  · exact s.restoreSnapshot_wf bs
  · simpa only [State.restoreSnapshot, offPC_eq] using hpc
  · intro k
    simpa only [State.restoreSnapshot, offStack_eq, Fin.getElem_fin, Vector.getElem_ofFn] using hstack k k.isLt
  · exact fun h => absurd h Bool.false_ne_true
  · simpa only [State.restoreSnapshot] using hs.errorOnlyHalted

/-- Loading a ROM resets first, or is refused (R237). -/
theorem loadRom (hs : s.Inv) (rom : List Byte) : (settle s (s.loadRom rom)).Inv := by
  unfold State.loadRom
  split
  · exact hs
  · exact (resetSession s).memWriteList rfl _ _

/-- Loading a snapshot restores a valid one, or is refused (R243). -/
theorem loadSnapshot (hs : s.Inv) (bs : List Byte) : (settle s (s.loadSnapshot bs)).Inv := by
  unfold State.loadSnapshot
  split
  · next hbs => exact hs.restoreSnapshot hbs
  · exact hs

end State.Inv

/-- Settles O11: the instruction tick keeps the invariants, and what follows it writes none of their fields. -/
theorem stepKeepsTheInvariants : Obligations.StepKeepsTheInvariants := by
  intro s t hs h
  obtain ⟨u, hu, rfl⟩ := mapNext_eq_next h
  exact (hs.instrTick hu).retire

/-- Settles O13, operation by operation. -/
theorem hostOperationsKeepTheInvariants : Obligations.HostOperationsKeepTheInvariants := by
  intro op s t hs h
  cases op with
  | iterate dt => exact hs.iterate h
  | setKeys k => cases h; exact { hs with }
  | readDisplay | status | saveSnapshot => cases h; exact hs
  | ackDirty => cases h; exact { hs with }
  | loadRom rom => cases h; exact hs.loadRom rom
  | loadSnapshot bs => cases h; exact hs.loadSnapshot bs

/-- Settles O12: reset is a reset session, with no time reported and no tick executed. -/
theorem resetMeetsTheInvariants : Obligations.ResetMeetsTheInvariants :=
  ⟨State.Inv.resetSession State.reset, (onTime_iff _).2 ⟨by decide, le_rfl, rfl, rfl⟩⟩

end Sys2Proof.Machine
end

section
/-! SUPPORT. The word of a well-formed instruction decodes to it (30_encoding.md R74 to R77, R84). -/

namespace Sys2Proof

/-- R75: a word with high nibble 0 that is neither CLS nor RET is SYS. -/
theorem decodeZero_sys {nnn : Addr} (hcls : nnn ≠ 0x0E0#12) (hret : nnn ≠ 0x0EE#12) :
    decodeZero (0x0#4 ++ nnn) = .ok (.sys nnn) := by
  have hword {w : Word} (hne : nnn ≠ nnnField w) : (0x0#4 ++ nnn : Word) ≠ w := by
    rintro rfl
    exact hne (nnnField_formatA 0x0#4 nnn).symm
  rw [decodeZero, if_neg (hword (w := 0x00E0#16) hcls), if_neg (hword (w := 0x00EE#16) hret), nnnField_formatA]

/-- R76: a low nibble of 0 is accepted under both values of `STRICT_LOW_NIBBLE`. -/
@[simp] theorem decodeRegSkip_zero (strict : Bool) (a x y : BitVec 4) (i : Instr) :
    decodeRegSkip strict (a ++ x ++ y ++ 0x0#4) i = .ok i := by
  simp [decodeRegSkip]

/-- Decoding undoes encoding, under both values of `STRICT_LOW_NIBBLE`: by the high nibble, and then by the function nibble or
byte that the form fixes. -/
theorem decodeWord_encode (strict : Bool) {i : Instr} (hi : i.wellFormed = true) :
    decodeWord strict (encode i) = .ok i := by
  cases i with
  | sys nnn =>
    simp only [Instr.wellFormed, Bool.and_eq_true, bne_iff_ne] at hi
    obtain ⟨hcls, hret⟩ := hi
    rw [decodeWord, encode, if_pos (opField_formatA _ _), decodeZero_sys hcls hret]
  | cls | ret => rfl
  | jp | call | ldI | jpV0 | seImm | sneImm | ldImm | addImm | rnd | drw | seReg | sneReg => simp [encode, decodeWord]
  | ldReg | orReg | andReg | xorReg | addReg | sub | shr | subn | shl => simp [encode, decodeWord, decodeAlu]
  | skp | sknp => simp [encode, decodeWord, decodeKey]
  | ldVxDt | ldVxK | ldDtVx | ldStVx | addI | ldF | ldB | ldStore | ldLoad => simp [encode, decodeWord, decodeMisc]

end Sys2Proof
end

section
/-! SUPPORT. Proofs of the memory statements: stores and fetches, the instruction placed at PC, and which instructions write
memory. -/

namespace Sys2Proof.Machine

/-! ### Stores and fetches -/

/-- Settles O22, from the laws of `memRead` and `memWrite`. -/
theorem writeThenReadIsTheByteWritten : Obligations.WriteThenReadIsTheByteWritten := fun s a a' v hm =>
  ⟨(s.memRead_mod a').symm, State.memRead_memWrite hm a v a', rfl, State.memWrite_wf hm a v⟩

theorem wordOfBytes_toNat (hi lo : Byte) : (wordOfBytes hi lo).toNat = hi.toNat * 256 + lo.toNat :=
  toNat_append_eq hi lo

namespace State

variable {s : State}

/-- R54, R67: the two bytes just stored at PC and PC + 1 are the fetched word; they are different addresses mod 4096. -/
theorem fetch_memWrite_memWrite (hm : Memory.wf s.params.font s.mem) (hi lo : Byte) :
    ((s.memWrite s.PC.toNat hi).memWrite (s.PC.toNat + 1) lo).fetch = wordOfBytes hi lo := by
  have hne : s.PC.toNat % 4096 ≠ (s.PC.toNat + 1) % 4096 := by omega
  simp only [fetch, memWrite_PC, memRead_memWrite (memWrite_wf hm _ _), memRead_memWrite hm, if_neg hne, if_true]

/-- A word placed at PC is the word fetched. -/
theorem fetch_placeWord (hm : Memory.wf s.params.font s.mem) (w : Word) : (s.placeWord w).fetch = w :=
  (fetch_memWrite_memWrite hm _ _).trans (wordOfBytes_bytesOfWord w)

/-- The 16 bits of a word are the word placed. -/
theorem withFetchWord_toNat (s : State) (w : Word) : s.withFetchWord 16 w.toNat = s.placeWord w := by
  rw [withFetchWord, Nat.mod_eq_of_lt w.isLt, BitVec.ofNat_toNat, BitVec.setWidth_eq]

/-- A well-formed instruction placed at PC is the one decoded there (R72). -/
theorem decoded_placeWord_encode (hm : Memory.wf s.params.font s.mem) {i : Instr} (hi : i.wellFormed = true) :
    (s.placeWord (encode i)).decoded = .ok i := by
  rw [decoded, fetch_placeWord hm, decodeWord_encode _ hi]

end State

/-- Settles O24: the fetched word by its two bytes, and those bytes after the two stores. -/
theorem fetchIsBigEndianAndSeesStores : Obligations.FetchIsBigEndianAndSeesStores := by
  intro s hi lo hm
  constructor
  · rw [State.memRead_mod, State.fetch, wordOfBytes_toNat]
  · rw [State.fetch_memWrite_memWrite hm, wordOfBytes_toNat]

/-! ### The instruction placed at PC -/

/-- R222: the instruction tick of a running machine executes the decoded instruction. -/
theorem instrTick_of_decoded {s : State} {i : Instr} (hrun : s.halted = false) (hd : s.decoded = .ok i) :
    instrTick s = exec i s := by
  rw [State.decoded] at hd
  simp [instrTick, hrun, hd]

/-- Settles O7: the placed word is fetched, and it decodes to its instruction. -/
theorem stepRunsThePlacedInstruction : Obligations.StepRunsThePlacedInstruction := by
  intro s i hm hi
  rw [State.withFetchWord_toNat]
  have hrun : (s.placeWord (encode i)).halted = false := rfl
  have hd := State.decoded_placeWord_encode hm hi
  exact ⟨hrun, hd, congrArg (mapNext State.retire) (instrTick_of_decoded hrun hd)⟩

/-! ### Which instructions write memory -/

/-- R57: memory is written by the store forms only. -/
theorem Effect.mem_eq_or_store {i : Instr} {s t : State} (h : Effect s i t) :
    t.mem = s.mem ∨ ∃ x, i = .ldB x ∨ i = .ldStore x := by
  cases h with
  | stored _ _ _ hi => exact .inr hi
  | _ => exact .inl rfl

/-- Equal cells under equal parameters read alike (R52). -/
theorem sameBytes_of_mem_eq {s t : State} (hparams : t.params = s.params) (hmem : t.mem = s.mem) : sameBytes s t := by
  intro a
  rw [State.memRead, State.memRead, hparams, hmem]

/-- Settles O58, from the effects that write memory. -/
theorem onlyTheStoreFormsWriteMemory : Obligations.OnlyTheStoreFormsWriteMemory := by
  intro i s t h
  obtain ⟨-, -, -, -, -, hparams⟩ := exec_hostAndClockFields h
  rcases (exec_effect h).mem_eq_or_store with hmem | hstore
  · exact .inr ⟨sameBytes_of_mem_eq hparams hmem, hmem⟩
  · exact .inl hstore

end Sys2Proof.Machine
end

section
/-! SUPPORT. Proofs of the encoding statements: what the decoder answers for each word (30_encoding.md R74 to R78, R84),
and that every transition has a next state. -/

namespace Sys2Proof

/-! ### A word is the concatenation of its fields (R71) -/

section Fields
variable {w : Word} {a n : BitVec 4} {kk : Byte}

/-- Format `A`. -/
theorem formatA_fields (hop : opField w = a) : a ++ nnnField w = w := by
  subst hop
  apply BitVec.eq_of_toNat_eq
  rw [toNat_formatA, opField_toNat, nnnField_toNat]
  omega

/-- Formats `XKK` and `X`. -/
theorem formatXKK_fields (hop : opField w = a) (hkk : kkField w = kk) : a ++ xField w ++ kk = w := by
  subst hop hkk
  apply BitVec.eq_of_toNat_eq
  rw [toNat_formatXKK, opField_toNat, xField_toNat, kkField_toNat]
  omega

/-- Formats `XY` and `XYN`. -/
theorem formatXYN_fields (hop : opField w = a) (hn : nField w = n) : a ++ xField w ++ yField w ++ n = w := by
  subst hop hn
  apply BitVec.eq_of_toNat_eq
  rw [toNat_formatXYN, opField_toNat, xField_toNat, yField_toNat, nField_toNat]
  omega

/-- The mask of the high nibble alone leaves the high nibble (R84). -/
theorem mask_opField (hop : opField w = a) : w &&& 0xF000#16 = a ++ 0#12 := by
  conv_lhs => rw [← formatA_fields hop, Laws.mask_formatA]

end Fields

/-- The sixteen cases of R74. -/
theorem opField_cases (w : Word) :
    opField w = 0x0#4 ∨ opField w = 0x1#4 ∨ opField w = 0x2#4 ∨ opField w = 0x3#4 ∨
    opField w = 0x4#4 ∨ opField w = 0x5#4 ∨ opField w = 0x6#4 ∨ opField w = 0x7#4 ∨
    opField w = 0x8#4 ∨ opField w = 0x9#4 ∨ opField w = 0xA#4 ∨ opField w = 0xB#4 ∨
    opField w = 0xC#4 ∨ opField w = 0xD#4 ∨ opField w = 0xE#4 ∨ opField w = 0xF#4 := by
  generalize opField w = a
  decide +revert

/-! ### What a decoded word is -/

section Inversion
variable {strict : Bool} {w : Word} {i j : Instr}

/-- R76: the low nibble matters only under `STRICT_LOW_NIBBLE = true`. -/
theorem decodeRegSkip_eq_ok : decodeRegSkip strict w i = .ok j ↔ i = j ∧ (strict = true → nField w = 0x0#4) := by
  cases strict <;> by_cases hn : nField w = 0x0#4 <;> simp [decodeRegSkip, hn]

/-- R75: CLS and RET are matched as whole words, so the SYS that any other word decodes to is well-formed. -/
theorem encode_of_decodeZero (hop : opField w = 0x0#4) (h : decodeZero w = .ok i) : encode i = w ∧ i.wellFormed = true := by
  have hw : 0x0#4 ++ nnnField w = w := formatA_fields hop
  unfold decodeZero at h
  split_ifs at h with hcls hret <;> cases h
  · exact ⟨hcls.symm, rfl⟩
  · exact ⟨hret.symm, rfl⟩
  · refine ⟨hw, ?_⟩
    simp only [Instr.wellFormed, Bool.and_eq_true, bne_iff_ne]
    constructor
    · intro hnnn
      exact hcls (by rw [← hw, hnnn]; rfl)
    · intro hnnn
      exact hret (by rw [← hw, hnnn]; rfl)

theorem encode_of_decodeAlu (hop : opField w = 0x8#4) (h : decodeAlu w = .ok i) : encode i = w ∧ i.wellFormed = true := by
  unfold decodeAlu at h
  split_ifs at h <;> cases h <;> exact ⟨formatXYN_fields hop ‹_›, rfl⟩

theorem encode_of_decodeKey (hop : opField w = 0xE#4) (h : decodeKey w = .ok i) : encode i = w ∧ i.wellFormed = true := by
  unfold decodeKey at h
  split_ifs at h <;> cases h <;> exact ⟨formatXKK_fields hop ‹_›, rfl⟩

theorem encode_of_decodeMisc (hop : opField w = 0xF#4) (h : decodeMisc w = .ok i) : encode i = w ∧ i.wellFormed = true := by
  unfold decodeMisc at h
  split_ifs at h <;> cases h <;> exact ⟨formatXKK_fields hop ‹_›, rfl⟩

/-- A word that decodes is the word of its well-formed instruction, unless it is a `5xyN` or `9xyN` whose low nibble is not
examined (R76). -/
theorem decodeWord_eq_ok (h : decodeWord strict w = .ok i) :
    (encode i = w ∧ i.wellFormed = true) ∨
      strict = false ∧ (opField w = 0x5#4 ∧ i = .seReg (xField w) (yField w) ∨
        opField w = 0x9#4 ∧ i = .sneReg (xField w) (yField w)) := by
  rcases opField_cases w with hop | hop | hop | hop | hop | hop | hop | hop | hop | hop | hop | hop | hop | hop | hop | hop
  all_goals simp only [decodeWord, hop, reduceIte, BitVec.reduceEq] at h
  · exact .inl (encode_of_decodeZero hop h)
  · cases h; exact .inl ⟨formatA_fields hop, rfl⟩
  · cases h; exact .inl ⟨formatA_fields hop, rfl⟩
  · cases h; exact .inl ⟨formatXKK_fields hop rfl, rfl⟩
  · cases h; exact .inl ⟨formatXKK_fields hop rfl, rfl⟩
  · obtain ⟨rfl, hn⟩ := decodeRegSkip_eq_ok.1 h
    cases strict with
    | false => exact .inr ⟨rfl, .inl ⟨hop, rfl⟩⟩
    | true => exact .inl ⟨formatXYN_fields hop (hn rfl), rfl⟩
  · cases h; exact .inl ⟨formatXKK_fields hop rfl, rfl⟩
  · cases h; exact .inl ⟨formatXKK_fields hop rfl, rfl⟩
  · exact .inl (encode_of_decodeAlu hop h)
  · obtain ⟨rfl, hn⟩ := decodeRegSkip_eq_ok.1 h
    cases strict with
    | false => exact .inr ⟨rfl, .inr ⟨hop, rfl⟩⟩
    | true => exact .inl ⟨formatXYN_fields hop (hn rfl), rfl⟩
  · cases h; exact .inl ⟨formatA_fields hop, rfl⟩
  · cases h; exact .inl ⟨formatA_fields hop, rfl⟩
  · cases h; exact .inl ⟨formatXKK_fields hop rfl, rfl⟩
  · cases h; exact .inl ⟨formatXYN_fields hop rfl, rfl⟩
  · exact .inl (encode_of_decodeKey hop h)
  · exact .inl (encode_of_decodeMisc hop h)

end Inversion

/-- The word of every instruction matches its row of R84: by the format, the mask of the row keeps the fixed bits. -/
theorem encode_matches_tableRow (i : Instr) : Laws.RowMatch.Statement i := by
  cases i with
  | cls | ret => rfl
  | sys | jp | call | ldI | jpV0 => exact Laws.mask_formatA _ _
  | seImm | sneImm | ldImm | addImm | rnd => exact Laws.mask_formatXKK _ _ _
  | seReg | sneReg | drw => exact Laws.mask_formatXYN _ _ _ _
  | ldReg | orReg | andReg | xorReg | addReg | sub | shr | subn | shl => exact Laws.mask_formatXY _ _ _ _
  | skp | sknp | ldVxDt | ldVxK | ldDtVx | ldStVx | addI | ldF | ldB | ldStore | ldLoad => exact Laws.mask_formatX _ _ _

/-! ### Which words decode (R77) -/

/-- One row of a decoder's chain: it decodes where its test holds or the rest of the chain decodes. -/
theorem exists_ite_ok_eq {c : Prop} [Decidable c] {i : Instr} {r : Except Reject Instr} :
    (∃ j, (if c then .ok i else r) = .ok j) ↔ c ∨ ∃ j, r = .ok j := by
  by_cases hc : c <;> simp [hc]

theorem decodeZero_decodes (w : Word) : ∃ i, decodeZero w = .ok i := by
  simp [decodeZero, exists_ite_ok_eq]

theorem decodeAlu_decodes_iff (w : Word) :
    (∃ i, decodeAlu w = .ok i) ↔ (nField w).toNat ∈ [0, 1, 2, 3, 4, 5, 6, 7, 0xE] := by
  simp [decodeAlu, exists_ite_ok_eq, ← BitVec.toNat_inj]

theorem decodeKey_decodes_iff (w : Word) : (∃ i, decodeKey w = .ok i) ↔ (kkField w).toNat ∈ [0x9E, 0xA1] := by
  simp [decodeKey, exists_ite_ok_eq, ← BitVec.toNat_inj]

theorem decodeMisc_decodes_iff (w : Word) :
    (∃ i, decodeMisc w = .ok i) ↔ (kkField w).toNat ∈ [0x07, 0x0A, 0x15, 0x18, 0x1E, 0x29, 0x33, 0x55, 0x65] := by
  simp [decodeMisc, exists_ite_ok_eq, ← BitVec.toNat_inj]

/-! ### The statements -/

/-- Settles O2, by the form of the instruction. -/
theorem decodeOfEncodeIsTheInstruction : Obligations.DecodeOfEncodeIsTheInstruction :=
  fun strict _ hi => decodeWord_encode strict hi

/-- Settles O3: under `STRICT_LOW_NIBBLE = true` the forms that drop their low nibble do not decode. -/
theorem strictDecodingLosesNoBit : Obligations.StrictDecodingLosesNoBit := by
  intro w i h
  rcases decodeWord_eq_ok h with hw | ⟨hstrict, -⟩
  · exact hw
  · contradiction

/-- Settles O4, by the high nibble: R77 has a reserved function under 8, E and F only, R76 a low nibble under 5 and 9. -/
theorem unknownWordsAreTheReservedOnes : Obligations.UnknownWordsAreTheReservedOnes := by
  intro strict w
  rcases opField_cases w with hop | hop | hop | hop | hop | hop | hop | hop | hop | hop | hop | hop | hop | hop | hop | hop
  all_goals simp [decodeWord, hop, decodeZero_decodes, decodeAlu_decodes_iff, decodeKey_decodes_iff, decodeMisc_decodes_iff,
    decodeRegSkip_eq_ok, -List.mem_cons]

/-- Settles O5: a decoded word is the word of its instruction, which matches the row, or it is a `5xyN` or `9xyN`, whose row
fixes the high nibble alone. -/
theorem decodedWordMatchesItsTableRow : Obligations.DecodedWordMatchesItsTableRow := by
  intro strict w i h
  rcases decodeWord_eq_ok h with ⟨rfl, -⟩ | ⟨-, ⟨hop, rfl⟩ | ⟨hop, rfl⟩⟩
  · exact encode_matches_tableRow i
  · exact mask_opField hop
  · exact mask_opField hop

/-- Settles O1, by evaluating the decoder on the listed words. -/
theorem listedWordsDecode : Obligations.ListedWordsDecode := by
  unfold Obligations.ListedWordsDecode
  decide

end Sys2Proof

namespace Sys2Proof.Machine

/-- R222: the instruction tick of a running machine at an Unknown word. -/
theorem instrTick_of_unknown {s : State} {e : Reject} (hrun : s.halted = false) (hd : s.decoded = .error e) :
    instrTick s = .next s.unknownWord := by
  rw [State.decoded] at hd
  simp [instrTick, hrun, hd]

/-- Settles O8, by the policy: entry into the condition, or PC advanced past the word. -/
theorem unknownWordFollowsItsPolicy : Obligations.UnknownWordFollowsItsPolicy := by
  intro s e hrun hd
  refine ⟨s.unknownWord, instrTick_of_unknown hrun hd, ?_⟩
  rcases s.unknownWord_cases with ⟨hpolicy, hunknown⟩ | ⟨hpolicy, hunknown⟩
  · rw [hpolicy, hunknown]
    exact ⟨fun _ => s.raise_enteredFatal .unknownOpcode s.fetch, nofun⟩
  · rw [hpolicy, hunknown]
    exact ⟨nofun, fun _ => ⟨s.advance_pc, rfl, fun _ _ => rfl, fun _ => rfl⟩⟩

/-- A step has a next state, since its instruction tick has one. -/
theorem step_has_next (s : State) : ∃ t, step s = .next t := by
  obtain ⟨u, hu, -⟩ := instrTick_cases s
  exact ⟨u.retire, congrArg (mapNext State.retire) hu⟩

/-- A run-loop iteration has a next state, since its owed instruction ticks have one. -/
theorem iterate_has_next (dt : NNRat) (s : State) : ∃ t, iterate dt s = .next t := by
  obtain ⟨u, hu, -⟩ := runInstrTicks_fields (s.addTime dt).instrOwed (s.addTime dt)
  exact ⟨_, congrArg (mapNext (runTimerTicks (s.addTime dt).timerOwed)) hu⟩

/-- Settles O10: of the host operations only an iteration runs instructions; the others answer a next state outright. -/
theorem everyTransitionHasANextState : Obligations.EveryTransitionHasANextState := by
  refine ⟨step_has_next, fun op s => ?_⟩
  cases op with
  | iterate dt => exact iterate_has_next dt s
  | setKeys | readDisplay | ackDirty | status | loadRom | saveSnapshot | loadSnapshot => exact ⟨_, rfl⟩

end Sys2Proof.Machine
end

section
/-! SUPPORT. Proofs of the control flow statements (40_control_flow.md R100 to R110): jumps, the call stack, the skips and
SYS. -/

namespace Sys2Proof

/-! ### Words of the register skips -/

section RegisterSkips
variable {strict : Bool} {x y n : BitVec 4} {i : Instr}

/-- R76, R107: `5xyN` decodes to SE of two registers and to nothing else. -/
theorem decodeWord_seReg_iff :
    decodeWord strict (0x5#4 ++ x ++ y ++ n) = .ok i ↔ .seReg x y = i ∧ (strict = true → n = 0x0#4) := by
  simp [decodeWord, decodeRegSkip_eq_ok]

/-- R76, R108: `9xyN` decodes to SNE of two registers and to nothing else. -/
theorem decodeWord_sneReg_iff :
    decodeWord strict (0x9#4 ++ x ++ y ++ n) = .ok i ↔ .sneReg x y = i ∧ (strict = true → n = 0x0#4) := by
  simp [decodeWord, decodeRegSkip_eq_ok]

end RegisterSkips

end Sys2Proof

namespace Sys2Proof.Machine

/-! ### Writes to PC -/

/-- R24: the mask keeps a value that is in range. -/
theorem mask12_of_le {a : Word} (h : a.toNat ≤ 0xFFF) : mask12 a = a :=
  BitVec.eq_of_toNat_eq (by rw [mask12_toNat]; omega)

@[simp] theorem zext16_toNat (nnn : Addr) : (zext16 nnn).toNat = nnn.toNat :=
  BitVec.toNat_setWidth_of_le (by decide)

/-- R103, R104: a jump to `nnn` lands on it, the mask of R24 keeping 12 bits. -/
theorem mask12_zext16_toNat (nnn : Addr) : (mask12 (zext16 nnn)).toNat = nnn.toNat := by
  rw [mask12_toNat, zext16_toNat]
  omega

theorem State.setPc_onlyPcChanged (s : State) (a : Word) : onlyPcChanged s (s.setPc a) :=
  ⟨rfl, fun _ _ => rfl, fun _ => rfl⟩

/-- R25: both outcomes of a conditional skip are writes to PC. -/
theorem State.skipIf_onlyPcChanged (s : State) (c : Bool) : onlyPcChanged s (s.skipIf c) := by
  cases c
  · exact s.setPc_onlyPcChanged _
  · exact s.setPc_onlyPcChanged _

/-- An instruction that is a conditional skip skips one word where `p` makes its condition true, and goes to the next
instruction where `q` makes it false. -/
theorem exists_skipped {i : Instr} {s : State} {c : Bool} {p q : Prop} (h : exec i s = .next (s.skipIf c))
    (hskip : p → c = true) (hnext : q → c = false) :
    ∃ t, exec i s = .next t ∧ onlyPcChanged s t ∧ (p → pcAdvanced 4 s t) ∧ (q → pcAdvanced 2 s t) := by
  have hpc := s.skipIf_pc c
  refine ⟨_, h, s.skipIf_onlyPcChanged c, fun hp => ?_, fun hq => ?_⟩
  · rwa [hskip hp] at hpc ⊢
  · rwa [hnext hq] at hpc ⊢

/-! ### The call stack -/

namespace State
variable {s : State}

/-- R104: a push writes PCnext to the slot at SP and leaves the others. -/
theorem pushReturn_getElem (h : s.SP.val ≠ 16) (k : Fin 16) :
    (s.pushReturn h).stack[k] = if k.val = s.SP.val then s.pcNext else s.stack[k] := by
  simp [Vector.getElem_set, eq_comm]

/-- R102: a pop takes the slot under SP. -/
theorem popReturn_PC_of_SP {k : Fin 16} (h : s.SP.val = k.val + 1) : s.popReturn.PC = mask12 s.stack[k] := by
  simp [h]

theorem popReturn_SP_of_SP {k : Fin 16} (h : s.SP.val = k.val + 1) : s.popReturn.SP.val = k.val := by
  simp [h]

end State

/-! ### The two answers of each instruction that can raise a condition -/

section Answers
variable {s : State} {nnn : Addr}

theorem exec_sys_of_fatal (h : s.params.sysPolicy = .fatal) :
    exec (.sys nnn) s = .next (s.raise .unknownOpcode (encode (.sys nnn))) := by
  simp [exec, execSys, h]

theorem exec_sys_of_nop (h : s.params.sysPolicy = .nop) : exec (.sys nnn) s = .next s.advance := by
  simp [exec, execSys, h]

theorem exec_ret_of_empty (h : s.SP.val = 0) : exec .ret s = .next (s.raise .stackUnderflow (encode .ret)) := if_pos h

theorem exec_ret_of_nonempty (h : s.SP.val ≠ 0) : exec .ret s = .next s.popReturn := if_neg h

theorem exec_call_of_full (h : s.SP.val = 16) :
    exec (.call nnn) s = .next (s.raise .stackOverflow (encode (.call nnn))) := dif_pos h

theorem exec_call_of_room (h : s.SP.val ≠ 16) :
    exec (.call nnn) s = .next ((s.pushReturn h).setPc (zext16 nnn)) := dif_neg h

theorem exec_jpV0_of_fault (h : 0xFFF < s.offsetTarget nnn ∧ s.params.jumpOverflow = .fault) :
    exec (.jpV0 nnn) s = .next (s.raise .addressOutOfRange (encode (.jpV0 nnn))) := if_pos h

theorem exec_jpV0_of_jump (h : ¬(0xFFF < s.offsetTarget nnn ∧ s.params.jumpOverflow = .fault)) :
    exec (.jpV0 nnn) s = .next (s.setPc (BitVec.ofNat 16 (s.offsetTarget nnn))) := if_neg h

end Answers

/-! ### The statements -/

/-- Settles O29: one masked write to PC. -/
theorem jpSetsPcToItsTarget : Obligations.JpSetsPcToItsTarget := fun nnn s strict =>
  ⟨decodeWord_encode strict (i := .jp nnn) rfl, _, rfl, mask12_zext16_toNat nnn, s.setPc_onlyPcChanged _⟩

/-- Settles O30, by whether the stack is full. -/
theorem callPushesOrOverflows : Obligations.CallPushesOrOverflows := by
  intro nnn s strict
  refine ⟨decodeWord_encode strict (i := .call nnn) rfl, ?_⟩
  by_cases hfull : s.SP.val = 16
  · exact ⟨_, exec_call_of_full hfull, fun _ => s.raise_enteredFatal _ _, fun hroom => by omega⟩
  · refine ⟨_, exec_call_of_room hfull, fun h => absurd h hfull, fun _ => ?_⟩
    refine ⟨rfl, mask12_zext16_toNat nnn, fun k => ?_, rfl, fun _ _ => rfl, fun _ => rfl⟩
    rw [State.setPc_stack, State.pushReturn_getElem, apply_ite BitVec.toNat, State.pcNext_toNat]

/-- Settles O31, by whether the stack is empty. -/
theorem retPopsOrUnderflows : Obligations.RetPopsOrUnderflows := by
  intro s strict hrange
  refine ⟨decodeWord_encode strict (i := .ret) rfl, ?_⟩
  by_cases hempty : s.SP.val = 0
  · exact ⟨_, exec_ret_of_empty hempty, fun _ => s.raise_enteredFatal _ _, fun k hk => by omega⟩
  · refine ⟨_, exec_ret_of_nonempty hempty, fun h => absurd h hempty, fun k hk => ?_⟩
    have hpc : s.popReturn.PC = s.stack[k] := (State.popReturn_PC_of_SP hk).trans (mask12_of_le (hrange k))
    exact ⟨State.popReturn_SP_of_SP hk, hpc, rfl, fun _ _ => rfl, fun _ => rfl⟩

/-- Settles O32: the slot that RET pops is the one CALL pushed, and it holds PCnext of the CALL. -/
theorem retAfterCallReturnsBehindTheCall : Obligations.RetAfterCallReturnsBehindTheCall := by
  intro nnn s t u k hk hcall hSP hslot
  have hroom : s.SP.val ≠ 16 := by omega
  obtain rfl : (s.pushReturn hroom).setPc (zext16 nnn) = t := by simpa [exec_call_of_room hroom] using hcall
  have hSP : u.SP.val = k.val + 1 := by rw [hSP, ← hk]; rfl
  have hslot : u.stack[k] = s.pcNext := by
    rw [hslot, State.setPc_stack, State.pushReturn_getElem, if_pos hk.symm]
  refine ⟨_, exec_ret_of_nonempty (by omega), Fin.ext ((State.popReturn_SP_of_SP hSP).trans hk.symm), ?_⟩
  rw [pcAdvanced, State.popReturn_PC_of_SP hSP, hslot, mask12_toNat, State.pcNext_toNat, Nat.mod_mod]

/-- Settles O33: both are conditional skips. -/
theorem immediateSkipsCompareAndSkip : Obligations.ImmediateSkipsCompareAndSkip := fun x kk _ strict =>
  ⟨decodeWord_encode strict (i := .seImm x kk) rfl, decodeWord_encode strict (i := .sneImm x kk) rfl,
    exists_skipped rfl beq_iff_eq.2 beq_eq_false_iff_ne.2, exists_skipped rfl bne_iff_ne.2 bne_eq_false_iff_eq.2⟩

/-- Settles O34: both are conditional skips, and their words decode by the low nibble and `STRICT_LOW_NIBBLE` alone. -/
theorem registerSkipsCompareAndSkip : Obligations.RegisterSkipsCompareAndSkip := fun _ _ _ _ =>
  ⟨decodeWord_seReg_iff.2 ⟨rfl, nofun⟩, decodeWord_sneReg_iff.2 ⟨rfl, nofun⟩,
    fun hn => ⟨decodeWord_seReg_iff.2 ⟨rfl, fun _ => hn⟩, decodeWord_sneReg_iff.2 ⟨rfl, fun _ => hn⟩⟩,
    fun hn => ⟨fun _ h => hn ((decodeWord_seReg_iff.1 h).2 rfl), fun _ h => hn ((decodeWord_sneReg_iff.1 h).2 rfl)⟩,
    exists_skipped rfl beq_iff_eq.2 beq_eq_false_iff_ne.2, exists_skipped rfl bne_iff_ne.2 bne_eq_false_iff_eq.2⟩

/-- Settles O35, by whether the sum passes 0xFFF under the fault policy. -/
theorem jpV0AddsItsOffset : Obligations.JpV0AddsItsOffset := by
  intro nnn s strict
  refine ⟨decodeWord_encode strict (i := .jpV0 nnn) rfl, ?_⟩
  by_cases hfault : 0xFFF < s.offsetTarget nnn ∧ s.params.jumpOverflow = .fault
  · exact ⟨_, exec_jpV0_of_fault hfault, fun _ => s.raise_enteredFatal _ _, fun h => absurd hfault h⟩
  · refine ⟨_, exec_jpV0_of_jump hfault, fun h => absurd h hfault, fun _ => ⟨?_, s.setPc_onlyPcChanged _⟩⟩
    rw [State.setPc_PC, mask12_toNat, BitVec.toNat_ofNat, State.offsetTarget]
    omega

/-- Settles O36, by the policy; the words that do not decode to SYS are CLS and RET. -/
theorem sysFollowsItsPolicy : Obligations.SysFollowsItsPolicy := by
  intro nnn s strict
  refine ⟨fun hcls hret => decodeWord_encode strict (i := .sys nnn) (by simp [Instr.wellFormed, hcls, hret]), ?_⟩
  cases hpolicy : s.params.sysPolicy with
  | fatal => exact ⟨_, exec_sys_of_fatal hpolicy, fun _ => s.raise_enteredFatal _ _, nofun⟩
  | nop => exact ⟨_, exec_sys_of_nop hpolicy, nofun, fun _ => ⟨s.advance_pc, s.setPc_onlyPcChanged _⟩⟩

end Sys2Proof.Machine
end

section
/-! SUPPORT. Proofs of the register and arithmetic statements (41_register_alu.md R121 to R133). -/

namespace Sys2Proof.Machine

/-! ### One register written, and PC advanced -/

namespace State

theorem setV_advance_getV (s : State) (x : RegIdx) (v : Byte) : (s.setV x v).advance.getV x = v := by
  simp

theorem setV_sameRegsBut (s : State) (x : RegIdx) (v : Byte) : sameRegsBut [x] s (s.setV x v) := by
  intro r hr
  have hrx : r ≠ x := by simpa using hr
  rw [getV_setV, if_neg hrx]

/-- R122 to R127: a form that writes `V[x]` changes nothing else and goes to the next instruction. -/
theorem setV_advance_onlyRegsChanged (s : State) (x : RegIdx) (v : Byte) :
    onlyRegsChanged [x] s (s.setV x v).advance :=
  ⟨(s.setV x v).advance_pc, rfl, s.setV_sameRegsBut x v, fun _ => rfl⟩

/-! ### The result, and then the flag (R121) -/

theorem setResultAndFlag_sameRegsBut (s : State) (x : RegIdx) (v : Byte) (c : Bool) :
    sameRegsBut [x, vf] s (s.setResultAndFlag x v c) := by
  intro r hr
  obtain ⟨hrx, hrf⟩ : r ≠ x ∧ r ≠ vf := by simpa using hr
  rw [getV_setResultAndFlag, if_neg hrf, if_neg hrx]

theorem setResultAndFlag_advance_onlyRegsChanged (s : State) (x : RegIdx) (v : Byte) (c : Bool) :
    onlyRegsChanged [x, vf] s (s.setResultAndFlag x v c).advance :=
  ⟨(s.setResultAndFlag x v c).advance_pc, rfl, s.setResultAndFlag_sameRegsBut x v c, fun _ => rfl⟩

/-- R130, R132: the operand that `SHIFT_SOURCE` names. -/
theorem shiftOperand_toNat (s : State) (x y : RegIdx) :
    (s.shiftOperand x y).toNat = if s.params.shiftSource = .vx then (s.getV x).toNat else (s.getV y).toNat := by
  cases h : s.params.shiftSource <;> simp [shiftOperand, h]

end State

/-- An instruction that writes a result and then a flag leaves `flag` in VF, and `result` in `V[x]` where that is not VF. -/
theorem exists_flagSet {i : Instr} {s : State} {x : RegIdx} {v : Byte} {c : Bool} {flag result : Nat}
    (h : exec i s = .next (s.setResultAndFlag x v c).advance) (hflag : (flagByte c).toNat = flag)
    (hresult : v.toNat = result) :
    ∃ t, exec i s = .next t ∧ onlyRegsChanged [x, vf] s t ∧ (t.getV vf).toNat = flag ∧
      (x ≠ vf → (t.getV x).toNat = result) := by
  refine ⟨_, h, s.setResultAndFlag_advance_onlyRegsChanged x v c, ?_, fun hx => ?_⟩
  · rw [State.getV_advance, State.getV_setResultAndFlag, if_pos rfl, hflag]
  · rw [State.getV_advance, State.getV_setResultAndFlag, if_neg hx, if_pos rfl, hresult]

/-! ### Flags and results as arithmetic on the operands -/

theorem flagByte_toNat (c : Bool) : (flagByte c).toNat = c.toNat := by
  cases c <;> rfl

theorem flagByte_decide_toNat (p : Prop) [Decidable p] : (flagByte (decide p)).toNat = if p then 1 else 0 := by
  by_cases hp : p <;> simp [flagByte, hp]

section Arithmetic
variable (a b : Byte)

/-- R128: the carry is the ninth bit of the sum. -/
theorem flagByte_carryOut_toNat : (flagByte (carryOut a b)).toNat = (a.toNat + b.toNat) / 256 := by
  rw [carryOut, flagByte_decide_toNat]
  split <;> omega

/-- R129, R131: the flag of a subtraction is 1 where no borrow occurs. -/
theorem flagByte_noBorrow_toNat : (flagByte (noBorrow a b)).toNat = if b.toNat ≤ a.toNat then 1 else 0 :=
  flagByte_decide_toNat _

theorem sub_toNat_eq : (a - b).toNat = (256 + a.toNat - b.toNat) % 256 := by
  rw [BitVec.toNat_sub]
  omega

/-- R130: a right shift by one shifts out bit 0. -/
theorem flagByte_shiftedOutRight_toNat : (flagByte (shiftedOutRight a)).toNat = a.toNat % 2 := by
  rw [flagByte_toNat, shiftedOutRight, BitVec.getLsbD, Nat.toNat_testBit]
  omega

/-- R132: a left shift by one shifts out bit 7. -/
theorem flagByte_shiftedOutLeft_toNat : (flagByte (shiftedOutLeft a)).toNat = a.toNat / 128 := by
  rw [flagByte_toNat, shiftedOutLeft, BitVec.getLsbD, Nat.toNat_testBit]
  omega

theorem shiftRight_one_toNat : (a >>> 1).toNat = a.toNat / 2 := by
  rw [BitVec.toNat_ushiftRight, Nat.shiftRight_one]

theorem shiftLeft_one_toNat : (a <<< 1).toNat = 2 * a.toNat % 256 := by
  rw [BitVec.toNat_shiftLeft, Nat.shiftLeft_eq, Nat.mul_comm]

end Arithmetic

/-! ### The statements -/

/-- Settles O37: each is one register write. -/
theorem loadsAndImmediateAddWriteTheirRegister : Obligations.LoadsAndImmediateAddWriteTheirRegister := by
  intro x y kk s strict
  refine ⟨decodeWord_encode strict (i := .ldImm x kk) rfl, decodeWord_encode strict (i := .addImm x kk) rfl,
    decodeWord_encode strict (i := .ldReg x y) rfl, ?_, ?_, ?_⟩
  · exact ⟨_, rfl, s.setV_advance_getV x _, s.setV_advance_onlyRegsChanged x _⟩
  · refine ⟨_, rfl, ?_, s.setV_advance_onlyRegsChanged x _⟩
    rw [State.setV_advance_getV, BitVec.toNat_add]
  · exact ⟨_, rfl, s.setV_advance_getV x _, s.setV_advance_onlyRegsChanged x _⟩

/-- Settles O38: each is one register write, whose bits are the library's bits of OR, AND and XOR. -/
theorem logicWorksBitByBit : Obligations.LogicWorksBitByBit := by
  intro x y s strict
  refine ⟨decodeWord_encode strict (i := .orReg x y) rfl, decodeWord_encode strict (i := .andReg x y) rfl,
    decodeWord_encode strict (i := .xorReg x y) rfl, ?_, ?_, ?_⟩
  · refine ⟨_, rfl, s.setV_advance_onlyRegsChanged x _, fun k _ => ?_⟩
    rw [State.setV_advance_getV, BitVec.getLsbD_or]
  · refine ⟨_, rfl, s.setV_advance_onlyRegsChanged x _, fun k _ => ?_⟩
    rw [State.setV_advance_getV, BitVec.getLsbD_and]
  · refine ⟨_, rfl, s.setV_advance_onlyRegsChanged x _, fun k _ => ?_⟩
    rw [State.setV_advance_getV, BitVec.getLsbD_xor, Bool.bne_eq_xor]

/-- Settles O39: the sum, and then its carry. -/
theorem addRegisterSetsCarry : Obligations.AddRegisterSetsCarry := fun x y _ strict =>
  ⟨decodeWord_encode strict (i := .addReg x y) rfl,
    exists_flagSet rfl (flagByte_carryOut_toNat _ _) (BitVec.toNat_add _ _)⟩

/-- Settles O40: each writes its difference, and then whether no borrow occurred, SUBN with the operands exchanged. -/
theorem subtractionsSetNoBorrow : Obligations.SubtractionsSetNoBorrow := fun x y _ strict =>
  ⟨decodeWord_encode strict (i := .sub x y) rfl, decodeWord_encode strict (i := .subn x y) rfl,
    exists_flagSet rfl (flagByte_noBorrow_toNat _ _) (sub_toNat_eq _ _),
    exists_flagSet rfl (flagByte_noBorrow_toNat _ _) (sub_toNat_eq _ _)⟩

/-- Settles O41: each shifts the operand of `SHIFT_SOURCE`, and then writes the bit shifted out. -/
theorem shiftsSetTheBitShiftedOut : Obligations.ShiftsSetTheBitShiftedOut := by
  intro x y s strict v hv
  obtain rfl : v = (s.shiftOperand x y).toNat := hv.trans (s.shiftOperand_toNat x y).symm
  exact ⟨decodeWord_encode strict (i := .shr x y) rfl, decodeWord_encode strict (i := .shl x y) rfl,
    exists_flagSet rfl (flagByte_shiftedOutRight_toNat _) (shiftRight_one_toNat _),
    exists_flagSet rfl (flagByte_shiftedOutLeft_toNat _) (shiftLeft_one_toNat _)⟩

/-- Settles O42: the draw is taken, and then one register is written with its masked bits. -/
theorem rndMasksAFreshDraw : Obligations.RndMasksAFreshDraw := by
  intro x kk s strict
  refine ⟨decodeWord_encode strict (i := .rnd x kk) rfl, _, rfl, rfl, ?_, fun k _ => ?_, ?_, fun _ => rfl, rfl⟩
  · exact (s.takeDraw.setV x _).advance_pc
  · rw [State.setV_advance_getV, BitVec.getLsbD_and, State.entropyDraw]
  · exact s.takeDraw.setV_sameRegsBut x _

end Sys2Proof.Machine
end

section
/-! SUPPORT. Proofs of the display statements: what CLS and DRW do to the pixels, VF and `dirty` (42_display.md R140 to
R146). -/

namespace Sys2Proof.Machine

@[simp] theorem pixelAt_blankGrid (px py : Nat) : pixelAt blankGrid px py = false := by
  simp [pixelAt, blankGrid]

@[simp] theorem flagByte_eq_one_iff {c : Bool} : flagByte c = 1#8 ↔ c = true := by
  cases c <;> decide

theorem flagByte_eq_zero_or_one (c : Bool) : flagByte c = 0#8 ∨ flagByte c = 1#8 := by
  cases c
  · exact .inl rfl
  · exact .inr rfl

/-- Two properties that agree on the display hold of some pixel alike. -/
theorem exists_pixel_congr {p q : Nat → Nat → Prop} (h : ∀ px py, px < 64 → py < 32 → (p px py ↔ q px py)) :
    (∃ px py, px < 64 ∧ py < 32 ∧ p px py) ↔ ∃ px py, px < 64 ∧ py < 32 ∧ q px py :=
  exists₂_congr fun px py => and_congr_right fun hx => and_congr_right fun hy => h px py hx hy

/-! ### The pixels a sprite covers -/

section Covered
variable {s t : State} {x y : RegIdx} {n : BitVec 4}

/-- R143: the pixels covered depend on the origin, I and the bytes of memory. -/
theorem spriteCovers_congr (hx : t.getV x = s.getV x) (hy : t.getV y = s.getV y) (hI : t.I = s.I)
    (hmem : sameBytes s t) : spriteCovers t x y n = spriteCovers s x y n := by
  funext px py
  simp only [spriteCovers, hx, hy, hI, hmem _]

/-- R140, R143: a set bit of the sprite covers a pixel, counted from the origin and wrapping. -/
theorem exists_spriteCovers {r c : Nat} (hr : r < n.toNat) (hc : c < 8)
    (hbit : (s.memRead (s.I.toNat + r)).getLsbD c = true) :
    ∃ px py, px < 64 ∧ py < 32 ∧ spriteCovers s x y n px py = true := by
  refine ⟨((s.getV x).toNat % 64 + (7 - c)) % 64, ((s.getV y).toNat % 32 + r) % 32,
    Nat.mod_lt _ (by decide), Nat.mod_lt _ (by decide), ?_⟩
  have hn := n.isLt
  have hcol : (((s.getV x).toNat % 64 + (7 - c)) % 64 + 64 - (s.getV x).toNat % 64) % 64 = 7 - c := by omega
  have hrow : (((s.getV y).toNat % 32 + r) % 32 + 32 - (s.getV y).toNat % 32) % 32 = r := by omega
  have hbitIndex : 7 - (7 - c) = c := by omega
  have hcol8 : 7 - c < 8 := by omega
  simp only [spriteCovers, hcol, hrow, hbitIndex, hr, hcol8, hbit, decide_true, Bool.and_self]

end Covered

/-! ### The drawing of DRW, by the pixels covered -/

namespace State

variable (s : State) (x y : RegIdx) (n : BitVec 4)

theorem pixelAt_spriteBlit {px py : Nat} (hx : px < 64) (hy : py < 32) :
    pixelAt (s.spriteBlit x y n).grid px py = (pixelAt s.disp px py != spriteCovers s x y n px py) := by
  obtain ⟨hpixel, -, -⟩ :=
    blitSprite_spec ((s.getV x).toNat % 64) ((s.getV y).toNat % 32) n.toNat (by omega) s.indexRead s.disp
  rw [← spriteRowsCover_eq s x y n px py hx hy]
  exact hpixel px py

theorem spriteBlit_collide_iff :
    (s.spriteBlit x y n).collide = true ↔
      ∃ px py, px < 64 ∧ py < 32 ∧ spriteCovers s x y n px py = true ∧ pixelAt s.disp px py = true := by
  obtain ⟨-, hcollide, -⟩ :=
    blitSprite_spec ((s.getV x).toNat % 64) ((s.getV y).toNat % 32) n.toNat (by omega) s.indexRead s.disp
  exact hcollide.trans (exists_pixel_congr fun px py hx hy => by rw [spriteRowsCover_eq s x y n px py hx hy])

theorem spriteBlit_changed_iff :
    (s.spriteBlit x y n).changed = true ↔ ∃ px py, px < 64 ∧ py < 32 ∧ spriteCovers s x y n px py = true := by
  obtain ⟨-, -, hchanged⟩ :=
    blitSprite_spec ((s.getV x).toNat % 64) ((s.getV y).toNat % 32) n.toNat (by omega) s.indexRead s.disp
  exact hchanged.trans (exists_pixel_congr fun px py hx hy => by rw [spriteRowsCover_eq s x y n px py hx hy])

/-- R141: the sprite has a pixel to draw exactly where the buffer comes out different, since no pixel is inverted twice. -/
theorem spriteBlit_changed_iff_grid_ne :
    (s.spriteBlit x y n).changed = true ↔ (s.spriteBlit x y n).grid ≠ s.disp := by
  rw [spriteBlit_changed_iff]
  constructor
  · rintro ⟨px, py, hx, hy, hcovers⟩ heq
    have hpixel := s.pixelAt_spriteBlit x y n hx hy
    simp [heq, hcovers] at hpixel
  · contrapose!
    intro hnone
    refine grid_ext fun px py hx hy => ?_
    rw [s.pixelAt_spriteBlit x y n hx hy, Bool.eq_false_iff.2 (hnone px py hx hy), Bool.bne_false]

/-! ### The state after DRW -/

/-- The state that DRW Vx, Vy, n answers (R143). -/
def drawn : State :=
  (({ s with disp := (s.spriteBlit x y n).grid, dirty := s.dirty || (s.spriteBlit x y n).changed } : State).setV vf
    (flagByte (s.spriteBlit x y n).collide)).advance

theorem exec_drw : exec (.drw x y n) s = .next (s.drawn x y n) := rfl

@[simp] theorem drawn_disp : (s.drawn x y n).disp = (s.spriteBlit x y n).grid := rfl
@[simp] theorem drawn_dirty : (s.drawn x y n).dirty = (s.dirty || (s.spriteBlit x y n).changed) := rfl

@[simp] theorem getV_drawn (q : RegIdx) :
    (s.drawn x y n).getV q = if q = vf then flagByte (s.spriteBlit x y n).collide else s.getV q :=
  getV_setV _ vf _ q

theorem drawn_sameBytes : sameBytes s (s.drawn x y n) := fun _ => rfl

theorem drawn_sameRegsBut : sameRegsBut [vf] s (s.drawn x y n) :=
  setV_sameRegsBut _ vf _

/-- R143: DRW changes nothing but the display, `dirty`, the registers and PC. -/
theorem drawn_frame :
    s.drawn x y n = { s with disp := (s.drawn x y n).disp, dirty := (s.drawn x y n).dirty, V := (s.drawn x y n).V,
                             PC := (s.drawn x y n).PC } := rfl

theorem drawn_pc : pcAdvanced 2 s (s.drawn x y n) := s.pcNext_toNat

theorem drawn_getV_vf_eq_one_iff :
    (s.drawn x y n).getV vf = 1#8 ↔
      ∃ px py, px < 64 ∧ py < 32 ∧ spriteCovers s x y n px py = true ∧ pixelAt s.disp px py = true := by
  rw [getV_drawn, if_pos rfl, flagByte_eq_one_iff, spriteBlit_collide_iff]

/-- R145: a sprite of no rows is one write of 0 to VF. -/
theorem drawn_heightZero : s.drawn x y 0#4 = (s.setV vf 0#8).advance := by
  have hblit : s.spriteBlit x y 0#4 = ⟨s.disp, false, false⟩ := rfl
  rw [drawn, hblit, Bool.or_false]
  rfl

/-- R146: where neither register is VF, a second draw covers the same pixels. -/
theorem spriteCovers_drawn {x y : RegIdx} (hx : x ≠ vf) (hy : y ≠ vf) :
    spriteCovers (s.drawn x y n) x y n = spriteCovers s x y n :=
  spriteCovers_congr (by simp [hx]) (by simp [hy]) rfl (s.drawn_sameBytes x y n)

/-- R146: a second draw inverts the pixels that the first one inverted. -/
theorem drawn_drawn_disp {x y : RegIdx} (hx : x ≠ vf) (hy : y ≠ vf) :
    ((s.drawn x y n).drawn x y n).disp = s.disp := by
  refine grid_ext fun px py hpx hpy => ?_
  rw [drawn_disp, pixelAt_spriteBlit _ x y n hpx hpy, s.spriteCovers_drawn n hx hy, drawn_disp,
    pixelAt_spriteBlit s x y n hpx hpy]
  simp [Bool.bne_eq_xor]

/-- R146: the second draw collides with the covered pixels that the first one set. -/
theorem drawn_drawn_getV_vf_eq_one_iff {x y : RegIdx} (hx : x ≠ vf) (hy : y ≠ vf) :
    ((s.drawn x y n).drawn x y n).getV vf = 1#8 ↔
      ∃ px py, px < 64 ∧ py < 32 ∧ spriteCovers s x y n px py = true ∧ pixelAt s.disp px py = false := by
  rw [drawn_getV_vf_eq_one_iff, s.spriteCovers_drawn n hx hy]
  refine exists_pixel_congr fun px py hpx hpy => and_congr_right fun hcovers => ?_
  rw [drawn_disp, pixelAt_spriteBlit s x y n hpx hpy, hcovers, Bool.bne_true, Bool.not_eq_true']

end State

/-! ### Which instruction writes the display -/

/-- R141: the display and `dirty` are written by CLS and DRW only. -/
theorem Effect.display_eq_or_clsDrw {i : Instr} {s t : State} (h : Effect s i t) :
    (t.disp = s.disp ∧ t.dirty = s.dirty) ∨ i = .cls ∨ ∃ x y n, i = .drw x y n := by
  cases h with
  | cleared => exact .inr (.inl rfl)
  | blitted x y n => exact .inr (.inr ⟨x, y, n, rfl⟩)
  | _ => exact .inl ⟨rfl, rfl⟩

/-- R141: every CLS sets `dirty`, and every other instruction sets it exactly where it changes the display. -/
theorem exec_dirty_iff {i : Instr} {s t : State} (h : exec i s = .next t) :
    t.dirty = true ↔ s.dirty = true ∨ i = .cls ∨ t.disp ≠ s.disp := by
  rcases (exec_effect h).display_eq_or_clsDrw with ⟨hdisp, hdirty⟩ | rfl | ⟨x, y, n, rfl⟩
  · refine ⟨fun ht => .inl (hdirty.symm.trans ht), ?_⟩
    rintro (hs | rfl | hne)
    · exact hdirty.trans hs
    · cases h; rfl
    · exact absurd hdisp hne
  · cases h
    simp
  · obtain rfl : s.drawn x y n = t := by simpa [State.exec_drw] using h
    simp [State.spriteBlit_changed_iff_grid_ne]

/-! ### The statements -/

/-- Settles O43: CLS writes the blank buffer. -/
theorem clsBlanksTheDisplay : Obligations.ClsBlanksTheDisplay := fun s strict =>
  ⟨decodeWord_encode strict (i := .cls) rfl, _, rfl, pixelAt_blankGrid, rfl, s.pcNext_toNat, fun _ _ => rfl,
    fun _ => rfl, rfl⟩

/-- Settles O44, from the pixels that the drawing covers. -/
theorem drwXorsTheSpriteAndReportsCollision : Obligations.DrwXorsTheSpriteAndReportsCollision := by
  intro x y n s strict
  refine ⟨decodeWord_encode strict (i := .drw x y n) rfl, _, s.exec_drw x y n, ?_, ?_, s.drawn_getV_vf_eq_one_iff x y n, ?_,
    s.drawn_pc x y n, s.drawn_sameRegsBut x y n, s.drawn_sameBytes x y n, s.drawn_frame x y n⟩
  · exact fun px py hpx hpy => s.pixelAt_spriteBlit x y n hpx hpy
  · rw [State.getV_drawn, if_pos rfl]
    exact flagByte_eq_zero_or_one _
  · rw [State.drawn_dirty, Bool.or_eq_true, State.spriteBlit_changed_iff]

/-- Settles O45: DRW of height 0 is one write of 0 to VF. -/
theorem drwOfHeightZeroDrawsNothing : Obligations.DrwOfHeightZeroDrawsNothing := by
  intro x y s strict
  refine ⟨decodeWord_encode strict (i := .drw x y 0#4) rfl, _, s.exec_drw x y 0#4, ?_⟩
  rw [State.drawn_heightZero]
  exact ⟨s.setV_advance_getV vf 0#8, s.setV_advance_onlyRegsChanged vf 0#8⟩

/-- Settles O46: both draws cover the same pixels, and on a blank display the pixel of a set bit was unset. -/
theorem drawingTwiceRestoresTheDisplay : Obligations.DrawingTwiceRestoresTheDisplay := by
  intro x y n s t u hx hy hfirst hsecond
  obtain rfl : s.drawn x y n = t := by simpa [State.exec_drw] using hfirst
  obtain rfl : (s.drawn x y n).drawn x y n = u := by simpa [State.exec_drw] using hsecond
  have hvf := s.drawn_drawn_getV_vf_eq_one_iff n hx hy
  refine ⟨s.drawn_drawn_disp n hx hy, hvf, ?_⟩
  rintro hblank ⟨r, c, hr, hc, hbit⟩
  obtain ⟨px, py, hpx, hpy, hcovers⟩ := exists_spriteCovers (x := x) (y := y) hr hc hbit
  exact hvf.2 ⟨px, py, hpx, hpy, hcovers, hblank px py⟩

/-- Settles O59, from what sets `dirty` and which effects write the display. -/
theorem displayChangesSetDirty : Obligations.DisplayChangesSetDirty := by
  intro i s t h
  have hdirty := exec_dirty_iff h
  refine ⟨fun hs => hdirty.2 (.inl hs), fun hne => hdirty.2 (.inr (.inr hne)), fun hcls => hdirty.2 (.inr (.inl hcls)), ?_, ?_⟩
  · intro hdisp hcls
    rw [Bool.eq_iff_iff, hdirty]
    simp [hdisp, hcls]
  · intro hchange
    refine (exec_effect h).display_eq_or_clsDrw.resolve_left ?_
    rintro ⟨hdisp, hdirty⟩
    exact hchange.elim (absurd hdisp) (absurd hdirty)

end Sys2Proof.Machine
end

section
/-! SUPPORT. Proofs of the keypad and timer statements (43_keypad_timer.md R160 to R167): the key skips, the key wait and the
timer instructions. -/

namespace Sys2Proof.Machine

namespace State
variable {s : State}

/-- R160: the key a register names is its value mod 16. -/
theorem keyIndex_toNat (s : State) (x : RegIdx) : (s.keyIndex x).toNat = (s.getV x).toNat % 16 :=
  BitVec.toNat_setWidth ..

/-! ### Newly pressed keys (R163) -/

/-- The key is pressed now and was not at the last poll: a member of R163's set `E`. -/
def newlyPressed (s : State) (k : Fin 16) : Prop := s.key[k] = true ∧ s.waitPrev[k] = false

theorem newlyPressed_iff {k : Fin 16} : s.newlyPressed k ↔ (s.key[k] && !s.waitPrev[k]) = true := by
  simp [newlyPressed]

/-- R163: a poll finds a key exactly where one is newly pressed. -/
theorem newPress?_eq_none_iff : s.newPress? = none ↔ ∀ k, ¬s.newlyPressed k := by
  simp only [newPress?, ← Fin.find?_eq_find?_finRange, Fin.find?_eq_none_iff, newlyPressed_iff, Bool.not_eq_true]

/-- R163: a poll finds the least newly pressed key. -/
theorem newPress?_eq_some_iff {k : Fin 16} :
    s.newPress? = some k ↔ s.newlyPressed k ∧ ∀ j, j < k → ¬s.newlyPressed j := by
  simp only [newPress?, ← Fin.find?_eq_find?_finRange, Fin.find?_eq_some_iff, newlyPressed_iff, Bool.not_eq_true]

end State

@[simp] theorem noKeys_getElem (k : Fin 16) : noKeys[k] = false := by
  simp [noKeys]

/-- Every key number fits the byte that LD Vx, K stores. -/
theorem keyByte_toNat (k : Fin 16) : (BitVec.ofNat 8 k.val).toNat = k.val :=
  (BitVec.toNat_ofNat ..).trans (Nat.mod_eq_of_lt (by omega))

/-! ### The three answers of LD Vx, K (R163) -/

section KeyWait
variable {s : State} {x : RegIdx}

theorem exec_ldVxK_of_idle (h : s.waitActive = false) : exec (.ldVxK x) s = .next s.beginWait := by
  simp [exec, execLdVxK, h]

theorem exec_ldVxK_of_noPress (h : s.waitActive = true) (hpress : s.newPress? = none) :
    exec (.ldVxK x) s = .next s.pollWait := by
  simp [exec, execLdVxK, h, hpress]

theorem exec_ldVxK_of_press {k : Fin 16} (h : s.waitActive = true) (hpress : s.newPress? = some k) :
    exec (.ldVxK x) s = .next (s.endWait.setV x (BitVec.ofNat 8 k.val)).advance := by
  simp [exec, execLdVxK, h, hpress]

end KeyWait

/-! ### The statements -/

/-- Settles O47: both are conditional skips on the key named. -/
theorem keySkipsTestTheNamedKey : Obligations.KeySkipsTestTheNamedKey := by
  intro x k s strict hk
  obtain rfl : k = s.keyIndex x := BitVec.eq_of_toNat_eq (hk.trans (s.keyIndex_toNat x).symm)
  exact ⟨decodeWord_encode strict (i := .skp x) rfl, decodeWord_encode strict (i := .sknp x) rfl,
    exists_skipped rfl id id, exists_skipped rfl (congrArg not) (congrArg not)⟩

/-- Settles O48, by whether a wait is active and what its poll finds, which is the least newly pressed key. -/
theorem keyWaitTakesTheLeastNewPress : Obligations.KeyWaitTakesTheLeastNewPress := by
  intro x s strict
  refine ⟨decodeWord_encode strict (i := .ldVxK x) rfl, ?_⟩
  cases hwait : s.waitActive with
  | false =>
    exact ⟨_, exec_ldVxK_of_idle hwait, fun _ => rfl, rfl, fun _ => ⟨rfl, rfl, rfl, fun _ _ => rfl⟩, nofun, nofun⟩
  | true =>
    cases hpress : s.newPress? with
    | none =>
      have hnone := State.newPress?_eq_none_iff.1 hpress
      exact ⟨_, exec_ldVxK_of_noPress hwait hpress, fun _ => rfl, rfl, nofun,
        fun _ _ => ⟨hwait, rfl, rfl, fun _ _ => rfl⟩, fun k _ hk _ => absurd hk (hnone k)⟩
    | some k =>
      obtain ⟨hnew, -⟩ := State.newPress?_eq_some_iff.1 hpress
      refine ⟨_, exec_ldVxK_of_press hwait hpress, fun _ => rfl, rfl, nofun, fun _ hnone => absurd hnew (hnone k), ?_⟩
      intro j _ hj hleast
      obtain rfl : k = j := Option.some.inj (hpress.symm.trans (State.newPress?_eq_some_iff.2 ⟨hj, hleast⟩))
      refine ⟨?_, rfl, noKeys_getElem, State.advance_pc _, s.endWait.setV_sameRegsBut x _⟩
      rw [State.setV_advance_getV, keyByte_toNat]

/-- Settles O49: each is one write, of a register or of a timer, and PC advanced. -/
theorem timerInstructionsMoveTheTimers : Obligations.TimerInstructionsMoveTheTimers := by
  intro x s strict
  refine ⟨decodeWord_encode strict (i := .ldVxDt x) rfl, decodeWord_encode strict (i := .ldDtVx x) rfl,
    decodeWord_encode strict (i := .ldStVx x) rfl, ?_, ?_, ?_⟩
  · exact ⟨_, rfl, s.setV_advance_getV x _, s.setV_advance_onlyRegsChanged x _⟩
  · exact ⟨_, rfl, rfl, s.advance_pc, rfl, fun _ _ => rfl, fun _ => rfl⟩
  · exact ⟨_, rfl, rfl, rfl, s.advance_pc, rfl, fun _ _ => rfl, fun _ => rfl⟩

end Sys2Proof.Machine
end

section
/-! SUPPORT. Proofs of the index and memory statements (44_index_memory.md R180 to R186): the writes to I, the BCD store and
the block moves. -/

namespace Sys2Proof.Machine

/-! ### Writes to I (R181 to R183) -/

/-- An instruction that writes I changes nothing else and goes to the next instruction. -/
theorem exists_indexSet {i : Instr} {s : State} {a : Word} {k : Nat} (h : exec i s = .next (s.setI a).advance)
    (ha : a.toNat = k) :
    ∃ t, exec i s = .next t ∧ t.I.toNat = k ∧ pcAdvanced 2 s t ∧ t = { s with I := t.I, PC := t.PC } ∧
      sameRegsBut [] s t ∧ sameBytes s t :=
  ⟨_, h, ha, (s.setI a).advance_pc, rfl, fun _ _ => rfl, fun _ => rfl⟩

/-- R182: the register is added without sign, and the sum is kept mod 2 ^ 16. -/
theorem add_setWidth_toNat (a : Word) (v : Byte) : (a + v.setWidth 16).toNat = (a.toNat + v.toNat) % 65536 := by
  rw [BitVec.toNat_add, BitVec.toNat_setWidth_of_le (by decide)]

/-- R183: the last glyph begins at 75, so the address needs no wrap. -/
theorem glyphAddr_toNat (v : Byte) : (glyphAddr v).toNat = 5 * (v.toNat % 16) := by
  rw [glyphAddr, BitVec.toNat_ofNat]
  omega

namespace State

/-! ### Indexed addresses (R180) -/

variable {s : State}

@[simp] theorem indexAddr_mod (s : State) (r : Nat) : s.indexAddr r % 4096 = s.indexAddr r :=
  Nat.mod_eq_of_lt (s.indexAddr_lt r)

/-- R180: offsets below the size of memory reach different addresses, wrapping included. -/
theorem indexAddr_inj {r q : Nat} (hr : r < 4096) (hq : q < 4096) : s.indexAddr r = s.indexAddr q ↔ r = q := by
  simp only [indexAddr]
  omega

/-! ### The BCD store (R184) -/

/-- The last of three indexed writes that reaches an address gives its byte; where none does, it is as before. -/
theorem memRead_indexWrite_three (hm : Memory.wf s.params.font s.mem) (a b c : Byte) (k : Nat) :
    (((s.indexWrite 0 a).indexWrite 1 b).indexWrite 2 c).memRead k =
      if k % 4096 = s.indexAddr 2 then c
      else if k % 4096 = s.indexAddr 1 then b
      else if k % 4096 = s.indexAddr 0 then a
      else s.memRead k := by
  have hm1 := indexWrite_wf hm 0 a
  have hm2 := indexWrite_wf hm1 1 b
  simp only [memRead_indexWrite hm2, memRead_indexWrite hm1, memRead_indexWrite hm, indexAddr_indexWrite]

/-! ### Block moves (R185, R186) -/

theorem memRead_storeRegs (hm : Memory.wf s.params.font s.mem) {n : Nat} (hn : n ≤ 16) {r : RegIdx} (hr : r.toNat < n) :
    (s.storeRegs n).memRead (s.indexAddr r.toNat) = s.getV r := by
  obtain ⟨hstored, -⟩ := storeRegs_read hm n hn
  rw [hstored _ hr, BitVec.ofNat_toNat, BitVec.setWidth_eq]

theorem storeRegs_sameBytesBut (hm : Memory.wf s.params.font s.mem) {n : Nat} (hn : n ≤ 16) :
    sameBytesBut ((List.range n).map s.indexAddr) s (s.storeRegs n) := by
  obtain ⟨-, hkept⟩ := storeRegs_read hm n hn
  intro a ha hout
  exact hkept a ha fun r hr e => hout (List.mem_map.2 ⟨r, List.mem_range.2 hr, e.symm⟩)

/-- R185: the instruction's frame, from that of its stores. -/
theorem storeRegs_setI_advance (s : State) (n : Nat) (a : Word) :
    ((s.storeRegs n).setI a).advance = ({ s with mem := (s.storeRegs n).mem, I := a } : State).advance :=
  congrArg (fun u => (u.setI a).advance) (s.storeRegs_frame n)

/-- R186: the instruction's frame, from that of its loads. -/
theorem loadRegs_setI_advance (s : State) (n : Nat) (a : Word) :
    ((s.loadRegs n).setI a).advance = ({ s with V := (s.loadRegs n).V, I := a } : State).advance :=
  congrArg (fun u => (u.setI a).advance) (s.loadRegs_frame n)

theorem indexAfterBlock_of_unchanged (h : s.params.indexPolicy = .unchanged) (x : RegIdx) : s.indexAfterBlock x = s.I := by
  simp [indexAfterBlock, h]

theorem indexAfterBlock_toNat_of_increment (h : s.params.indexPolicy = .increment) (x : RegIdx) :
    (s.indexAfterBlock x).toNat = (s.I.toNat + x.toNat + 1) % 65536 := by
  simp only [indexAfterBlock, h, BitVec.toNat_add, BitVec.toNat_ofNat]
  omega

end State

/-- R184: the three digits of a byte. -/
theorem bcdDigits_toNat (v : Byte) :
    (bcdDigits v).1.toNat = v.toNat / 100 ∧ (bcdDigits v).2.1.toNat = v.toNat / 10 % 10 ∧
      (bcdDigits v).2.2.toNat = v.toNat % 10 := by
  simp only [bcdDigits, BitVec.toNat_ofNat]
  omega

/-! ### The statements -/

/-- Settles O52: the stores from their reads, I from its policy, and the rest from the stores' frame. -/
theorem blockStoreCopiesRegistersToMemory : Obligations.BlockStoreCopiesRegistersToMemory := by
  intro x s strict hm
  have hn : x.toNat + 1 ≤ 16 := x.isLt
  have hframe := s.storeRegs_setI_advance (x.toNat + 1) (s.indexAfterBlock x)
  refine ⟨decodeWord_encode strict (i := .ldStore x) rfl, _, rfl, fun r hr => ?_, State.storeRegs_sameBytesBut hm hn,
    fun h => State.indexAfterBlock_of_unchanged h x, fun h => State.indexAfterBlock_toNat_of_increment h x, ?_⟩
  · exact State.memRead_storeRegs hm hn (by omega)
  · rw [hframe]
    exact ⟨State.advance_pc _, fun _ _ => rfl, rfl⟩

/-- Settles O53: the loads from their reads, I from its policy, and the rest from the loads' frame. -/
theorem blockLoadCopiesMemoryToRegisters : Obligations.BlockLoadCopiesMemoryToRegisters := by
  intro x s strict
  have hn : x.toNat + 1 ≤ 16 := x.isLt
  have hframe := s.loadRegs_setI_advance (x.toNat + 1) (s.indexAfterBlock x)
  refine ⟨decodeWord_encode strict (i := .ldLoad x) rfl, _, rfl, fun r => ?_,
    fun h => State.indexAfterBlock_of_unchanged h x, fun h => State.indexAfterBlock_toNat_of_increment h x, ?_⟩
  · simpa [Nat.lt_succ_iff] using s.loadRegs_read _ hn r
  · rw [hframe]
    exact ⟨State.advance_pc _, fun _ => rfl, rfl⟩

/-- Settles O51: the three addresses differ, so each keeps its digit. -/
theorem bcdStoresThreeDigits : Obligations.BcdStoresThreeDigits := by
  intro x s strict hm
  obtain ⟨hhundreds, htens, hunits⟩ := bcdDigits_toNat (s.getV x)
  refine ⟨decodeWord_encode strict (i := .ldB x) rfl, _, rfl, ?_, ?_, ?_, fun a ha hout => ?_, State.advance_pc _,
    fun _ _ => rfl, rfl⟩
  · simpa [State.memRead_indexWrite_three hm, State.indexAddr_inj] using hhundreds
  · simpa [State.memRead_indexWrite_three hm, State.indexAddr_inj] using htens
  · simpa [State.memRead_indexWrite_three hm] using hunits
  · obtain ⟨h0, h1, h2⟩ : a ≠ s.indexAddr 0 ∧ a ≠ s.indexAddr 1 ∧ a ≠ s.indexAddr 2 := by simpa using hout
    rw [State.memRead_advance, State.memRead_indexWrite_three hm, Nat.mod_eq_of_lt ha, if_neg h2, if_neg h1, if_neg h0]

/-- Settles O50: each is one write to I. -/
theorem indexInstructionsWriteI : Obligations.IndexInstructionsWriteI := fun nnn x s strict =>
  ⟨decodeWord_encode strict (i := .ldI nnn) rfl, decodeWord_encode strict (i := .addI x) rfl,
    decodeWord_encode strict (i := .ldF x) rfl, exists_indexSet rfl (zext16_toNat nnn),
    exists_indexSet rfl (add_setWidth_toNat s.I (s.getV x)), exists_indexSet rfl (glyphAddr_toNat (s.getV x))⟩

end Sys2Proof.Machine
end

section
/-! SUPPORT. Proofs of the Timing Controller's statements: the two clocks, the run-loop iteration and the step as one
iteration (60_exceptions.md R206, R207, R222 to R225). -/

namespace Sys2Proof.Machine

/-! ### Ticks -/

/-- Settles O18, from the countdown of one timer. -/
theorem timerTickCountsBothTimersDown : Obligations.TimerTickCountsBothTimersDown := by
  intro s
  refine ⟨State.countDown_toNat s.DT, State.countDown_toNat s.ST, ?_, rfl⟩
  simp [← BitVec.toNat_inj]

theorem instrTick_of_halted {s : State} (h : s.halted = true) : instrTick s = .next s := if_pos h

/-- R206: while halted, instruction ticks are counted and do nothing else. -/
theorem runInstrTicks_of_halted (n : Nat) {s : State} (h : s.halted = true) :
    runInstrTicks n s = .next { s with instrDone := s.instrDone + n } := by
  induction n generalizing s with
  | zero => rfl
  | succ n ih =>
    rw [runInstrTicks, instrTick_of_halted h, onNext_next, ih (by exact h), Nat.add_right_comm, Nat.add_assoc]

/-! ### One run-loop iteration -/

/-- Settles O17: the timer ticks start from the state that the instruction ticks leave. -/
theorem instructionTicksComeBeforeTimerTicks : Obligations.InstructionTicksComeBeforeTimerTicks := by
  intro dt s t h
  obtain ⟨u, hu, rfl⟩ := mapNext_eq_next h
  obtain ⟨hDT, hST, hdone, htone, hframe⟩ := State.runTimerTicks_spec (s.addTime dt).timerOwed u
  obtain ⟨v, hv, -, -, hkept, -⟩ := runInstrTicks_fields (s.addTime dt).instrOwed (s.addTime dt)
  obtain rfl : v = u := by simpa [hv] using hu
  exact ⟨v, hu, hkept, hdone, hDT, hST, htone, hframe⟩

/-- Settles O9: while halted, the iteration's instruction ticks only count, and its timer ticks follow. -/
theorem haltedInstructionTickDoesNothing : Obligations.HaltedInstructionTickDoesNothing := by
  intro s hs
  refine ⟨instrTick_of_halted hs, fun n => runInstrTicks_of_halted n hs, fun dt => ?_⟩
  obtain ⟨t, ht⟩ := iterate_has_next dt s
  obtain ⟨u, hu, -, hdone, hDT, hST, htone, hframe⟩ := instructionTicksComeBeforeTimerTicks dt s t ht
  cases (runInstrTicks_of_halted _ (s := s.addTime dt) hs).symm.trans hu
  exact ⟨t, ht, hdone, hDT, hST, htone, by rw [hframe]; rfl⟩

/-- R223: an iteration adds the elapsed time and runs the owed ticks of both clocks. -/
theorem iterate_clocks {dt : NNRat} {s t : State} (h : iterate dt s = .next t) :
    t.tTotal = s.tTotal + (dt : Rat) ∧ t.params = s.params ∧ t.instrDone = s.instrDone + (s.addTime dt).instrOwed ∧
      t.timerDone = s.timerDone + (s.addTime dt).timerOwed := by
  obtain ⟨u, hu, hkept, hdone, -, -, -, hframe⟩ := instructionTicksComeBeforeTimerTicks dt s t h
  obtain ⟨v, hv, htime, hinstr, -, hparams⟩ := runInstrTicks_fields (s.addTime dt).instrOwed (s.addTime dt)
  obtain rfl : v = u := by simpa [hv] using hu
  rw [hkept] at hdone
  refine ⟨?_, ?_, ?_, hdone⟩
  · rw [hframe]; exact htime
  · rw [hframe]; exact hparams
  · rw [hframe]; exact hinstr

/-- R223: an iteration runs every tick owed for the reported time. -/
theorem State.OnTime.iterate {dt : NNRat} {s t : State} (hs : s.OnTime) (h : iterate dt s = .next t) : t.OnTime := by
  obtain ⟨hrate, hnonneg, hinstr, htimer⟩ := (onTime_iff s).1 hs
  obtain ⟨htime, hparams, hinstr', htimer'⟩ := iterate_clocks h
  have hle : s.tTotal ≤ t.tTotal := by rw [htime]; exact le_add_of_nonneg_right dt.coe_nonneg
  have hmono := ticksDue_mono hnonneg hle
  have hiOwed : (s.addTime dt).instrOwed = ticksDue t.tTotal s.params.instrRate - s.instrDone := by rw [htime]; rfl
  have htOwed : (s.addTime dt).timerOwed = ticksDue t.tTotal 60 - s.timerDone := by rw [htime]; rfl
  refine (onTime_iff t).2 ⟨hparams ▸ hrate, hnonneg.trans hle, ?_, ?_⟩
  · have := hmono s.params.instrRate
    rw [hparams]; omega
  · have := hmono 60
    omega

/-- Settles O16: every iteration keeps the accounting and adds its elapsed time. -/
theorem iterationsAreDriftFree : Obligations.IterationsAreDriftFree := by
  intro dts
  induction dts with
  | nil =>
    intro s t hs h
    cases h
    exact ⟨by simp, rfl, hs.instrTicks, hs.timerTicks⟩
  | cons dt rest ih =>
    intro s t hs h
    obtain ⟨u, hu, hrest⟩ := onNext_eq_next h
    obtain ⟨htime, hparams, -, -⟩ := iterate_clocks hu
    obtain ⟨htime', hparams', hinstr, htimer⟩ := ih u t (hs.iterate hu) hrest
    refine ⟨?_, hparams'.trans hparams, hparams ▸ hinstr, htimer⟩
    rw [htime', htime]
    simp [add_assoc]

/-! ### Instructions do not read the clock

An instruction tick answers the same at any time, up to the time itself, so that the time a step adds after its instruction
tick may as well be added before it, as an iteration does. -/

section AddTime
variable (dt : NNRat) (s : State)

theorem State.storeRegs_addTime (n : Nat) : (s.addTime dt).storeRegs n = (s.storeRegs n).addTime dt := by
  induction n with
  | zero => rfl
  | succ n ih => rw [State.storeRegs_succ, State.storeRegs_succ, ih]; rfl

theorem State.loadRegs_addTime (n : Nat) : (s.addTime dt).loadRegs n = (s.loadRegs n).addTime dt := by
  induction n with
  | zero => rfl
  | succ n ih => rw [State.loadRegs_succ, State.loadRegs_succ, ih]; rfl

theorem State.skipIf_addTime (c : Bool) : (s.addTime dt).skipIf c = (s.skipIf c).addTime dt := by
  cases c
  · rfl
  · rfl

theorem State.unknownWord_addTime : (s.addTime dt).unknownWord = s.unknownWord.addTime dt := by
  unfold State.unknownWord
  cases h : s.params.unknownOpcode
  · simp only [State.addTime, h]; rfl
  · simp only [State.addTime, h]; rfl

variable {dt s}

/-- Two answers of one instruction that differ by the added time only. -/
theorem exec_addTime_of_answers {i : Instr} {t : State} (h : exec i s = .next t)
    (hdt : exec i (s.addTime dt) = .next (t.addTime dt)) :
    exec i (s.addTime dt) = mapNext (State.addTime · dt) (exec i s) := by
  rw [h, hdt, mapNext_next]

/-- No instruction reads or writes the reported time (R227). -/
theorem exec_addTime (i : Instr) : exec i (s.addTime dt) = mapNext (State.addTime · dt) (exec i s) := by
  cases i with
  | sys nnn =>
    cases h : s.params.sysPolicy
    · exact exec_addTime_of_answers (exec_sys_of_fatal h) (exec_sys_of_fatal (s := s.addTime dt) h)
    · exact exec_addTime_of_answers (exec_sys_of_nop h) (exec_sys_of_nop (s := s.addTime dt) h)
  | ret =>
    by_cases h : s.SP.val = 0
    · exact exec_addTime_of_answers (exec_ret_of_empty h) (exec_ret_of_empty (s := s.addTime dt) h)
    · exact exec_addTime_of_answers (exec_ret_of_nonempty h) (exec_ret_of_nonempty (s := s.addTime dt) h)
  | call nnn =>
    by_cases h : s.SP.val = 16
    · exact exec_addTime_of_answers (exec_call_of_full h) (exec_call_of_full (s := s.addTime dt) h)
    · exact exec_addTime_of_answers (exec_call_of_room h) (exec_call_of_room (s := s.addTime dt) h)
  | jpV0 nnn =>
    by_cases h : 0xFFF < s.offsetTarget nnn ∧ s.params.jumpOverflow = .fault
    · exact exec_addTime_of_answers (exec_jpV0_of_fault h) (exec_jpV0_of_fault (s := s.addTime dt) h)
    · exact exec_addTime_of_answers (exec_jpV0_of_jump h) (exec_jpV0_of_jump (s := s.addTime dt) h)
  | ldVxK x =>
    cases hwait : s.waitActive
    · exact exec_addTime_of_answers (exec_ldVxK_of_idle hwait) (exec_ldVxK_of_idle (s := s.addTime dt) hwait)
    · cases hpress : s.newPress? with
      | none =>
        exact exec_addTime_of_answers (exec_ldVxK_of_noPress hwait hpress)
          (exec_ldVxK_of_noPress (s := s.addTime dt) hwait hpress)
      | some k =>
        exact exec_addTime_of_answers (exec_ldVxK_of_press hwait hpress)
          (exec_ldVxK_of_press (s := s.addTime dt) hwait hpress)
  | seImm | sneImm | seReg | sneReg | skp | sknp => exact congrArg Host.Outcome.next (s.skipIf_addTime dt _)
  | ldStore x =>
    exact congrArg (fun u => Host.Outcome.next (u.setI (s.indexAfterBlock x)).advance) (s.storeRegs_addTime dt _)
  | ldLoad x =>
    exact congrArg (fun u => Host.Outcome.next (u.setI (s.indexAfterBlock x)).advance) (s.loadRegs_addTime dt _)
  | _ => rfl

theorem instrTick_addTime : instrTick (s.addTime dt) = mapNext (State.addTime · dt) (instrTick s) := by
  cases hrun : s.halted
  · cases hd : s.decoded with
    | ok i => rw [instrTick_of_decoded hrun hd, instrTick_of_decoded (s := s.addTime dt) hrun hd, exec_addTime]
    | error e =>
      rw [instrTick_of_unknown hrun hd, instrTick_of_unknown (s := s.addTime dt) hrun hd, State.unknownWord_addTime,
        mapNext_next]
  · rw [instrTick_of_halted hrun, instrTick_of_halted (s := s.addTime dt) hrun, mapNext_next]

end AddTime

/-! ### A step as an iteration -/

/-- No instruction tick is owed where the accounting holds. -/
theorem State.OnTime.instrOwed_eq_zero {s : State} (hs : s.OnTime) : s.instrOwed = 0 := by
  obtain ⟨-, -, hinstr, -⟩ := (onTime_iff s).1 hs
  rw [State.instrOwed, ← hinstr, Nat.sub_self]

/-- The next instruction tick is due at the reported time or later. -/
theorem State.OnTime.exists_elapsed {s : State} (hs : s.OnTime) :
    ∃ dt : NNRat, s.tTotal + (dt : Rat) = ((s.instrDone : Rat) + 1) / (s.params.instrRate : Rat) := by
  have hle : s.tTotal ≤ ((s.instrDone : Rat) + 1) / (s.params.instrRate : Rat) := by
    rw [le_div_iff₀ (by exact_mod_cast hs.ratePositive), hs.instrTicks, Int.floor_toNat]
    exact (Nat.lt_floor_add_one _).le
  exact ⟨⟨_, sub_nonneg.2 hle⟩, add_sub_cancel _ _⟩

/-- Where no instruction tick was owed, the tick is counted at the time it is due, and none is owed then. -/
theorem State.countInstr_of_none_owed {u : State} (howed : u.instrOwed = 0) (hrate : 0 < u.params.instrRate) :
    u.countInstr = { u with instrDone := u.instrDone + 1, tTotal := mkRat (u.instrDone + 1) u.params.instrRate } ∧
      u.countInstr.instrOwed = 0 := by
  have hcount : u.countInstr =
      { u with instrDone := u.instrDone + 1, tTotal := mkRat (u.instrDone + 1) u.params.instrRate } := by
    rw [State.countInstr, if_pos howed]
  refine ⟨hcount, ?_⟩
  rw [hcount]
  exact Nat.sub_eq_zero_of_le (ticksDue_due _ _ hrate).le

/-- Where no instruction tick was owed, what follows the instruction tick of a step is what follows the one owed tick of the
iteration that ends when that tick is due. -/
theorem State.retire_of_due {u : State} {dt : NNRat} (howed : u.instrOwed = 0) (hrate : 0 < u.params.instrRate)
    (hdue : u.tTotal + (dt : Rat) = mkRat (u.instrDone + 1) u.params.instrRate) :
    u.retire = runTimerTicks (u.addTime dt).timerOwed { u.addTime dt with instrDone := u.instrDone + 1 } := by
  obtain ⟨hcount, hnone⟩ := State.countInstr_of_none_owed howed hrate
  rw [State.retire, if_pos hnone, hcount, ← hdue]
  rfl

/-- Settles O15: the time that makes the next instruction tick due is added before the tick, which does not read it. -/
theorem stepIsOneIteration : Obligations.StepIsOneIteration := by
  intro s hs
  obtain ⟨dt, hdt⟩ := hs.exists_elapsed
  obtain ⟨u, hu, -⟩ := instrTick_cases s
  obtain ⟨htime, hinstr, htimer, hparams⟩ := instrTick_fields hu
  have hdue : s.tTotal + (dt : Rat) = mkRat (s.instrDone + 1) s.params.instrRate := by
    rw [hdt, Rat.mkRat_eq_div]; push_cast; rfl
  have howed : (s.addTime dt).instrOwed = 1 := by
    simp [State.instrOwed, State.addTime, hdue, ticksDue_due _ _ hs.ratePositive]
  have hretire : u.retire = runTimerTicks (s.addTime dt).timerOwed { u.addTime dt with instrDone := u.instrDone + 1 } := by
    have hnone : u.instrOwed = s.instrOwed := by rw [State.instrOwed, htime, hinstr, hparams]; rfl
    have htimers : (u.addTime dt).timerOwed = (s.addTime dt).timerOwed := by
      simp only [State.timerOwed, State.addTime, htime, htimer]
    rw [← htimers]
    exact State.retire_of_due (hnone.trans hs.instrOwed_eq_zero) (hparams ▸ hs.ratePositive)
      (by rw [htime, hinstr, hparams, hdue])
  refine ⟨dt, hdt, howed, ?_⟩
  calc step s = .next u.retire := congrArg (mapNext State.retire) hu
    _ = iterate dt s := by rw [hretire, iterate, howed, runInstrTicks, instrTick_addTime, hu]; rfl

/-- Settles O14: the step is an iteration, which keeps the accounting, with one instruction tick owed. -/
theorem stepKeepsTheTickAccounting : Obligations.StepKeepsTheTickAccounting := by
  intro s t hs h
  obtain ⟨dt, -, howed, hstep⟩ := stepIsOneIteration s hs
  have hiter : iterate dt s = .next t := hstep.symm.trans h
  obtain ⟨-, -, hinstr, -⟩ := iterate_clocks hiter
  exact ⟨hs.iterate hiter, howed ▸ hinstr⟩

/-- Settles O6: the step is the instruction followed by `State.retire`, a count of the tick and then timer ticks. -/
theorem stepRunsTheDecodedInstruction : Obligations.StepRunsTheDecodedInstruction := by
  intro s t i hrun hd h
  have hstep : step s = .next t.retire := congrArg (mapNext State.retire) ((instrTick_of_decoded hrun hd).trans h)
  obtain ⟨hDT, hST, hdone, htone, hframe⟩ :=
    State.runTimerTicks_spec (if t.countInstr.instrOwed = 0 then t.countInstr.timerOwed else 0) t.countInstr
  simp only [← State.retire.eq_def] at hDT hST hdone htone hframe
  have htime : t.retire.tTotal = t.countInstr.tTotal := by rw [hframe]
  have howed : t.retire.instrOwed = t.countInstr.instrOwed := by rw [hframe]; rfl
  rw [← howed] at hDT hST hdone htone
  have hran : t.retire.timerDone - t.timerDone = if t.retire.instrOwed = 0 then t.countInstr.timerOwed else 0 :=
    Nat.sub_eq_of_eq_add' hdone
  have hnone : t.retire.timerDone = t.timerDone ↔ (if t.retire.instrOwed = 0 then t.countInstr.timerOwed else 0) = 0 := by
    rw [hdone]; exact Nat.add_eq_left
  refine ⟨t.retire, hstep, t.retire_frame.1, htime, ?_, ?_, ?_, ?_, t.retire_frame.2⟩
  · rw [htime]; exact hdone
  · rw [hran]; exact hDT
  · rw [hran]; exact hST
  · simp only [hnone]; exact htone

end Sys2Proof.Machine
end

section
/-! SUPPORT. Proofs of the host port and snapshot statements (60_exceptions.md R232 to R245) and of the precise entry into a
fatal condition (R200 to R205). -/

namespace Sys2Proof.Machine

/-! ### Host ports -/

/-- Settles O25: each port is one field. -/
theorem portsChangeOnlyTheirField : Obligations.PortsChangeOnlyTheirField := by
  intro s k
  exact ⟨⟨s.setKeys k, rfl, fun _ => rfl, rfl⟩, ⟨s.ackDirty, rfl, rfl, rfl⟩, rfl, rfl, rfl, rfl, rfl, rfl, rfl, rfl, rfl⟩

theorem State.loadRom_of_tooLarge (s : State) {rom : List Byte} (h : 0xE00 < rom.length) :
    s.loadRom rom = .error .romTooLarge := if_pos h

theorem State.loadRom_of_fits (s : State) {rom : List Byte} (h : rom.length ≤ 0xE00) :
    s.loadRom rom = .ok (s.resetSession.memWriteList 0x200 rom) := if_neg (by omega)

/-- Settles O21: a ROM that fits ends at the top of memory or below it, so its bytes are read back where they are stored. -/
theorem loadRomResetsThenCopies : Obligations.LoadRomResetsThenCopies := by
  intro s rom
  refine ⟨fun hlarge => ?_, fun hfits => ?_⟩
  · have hrefused := s.loadRom_of_tooLarge hlarge
    exact ⟨hrefused, by rw [hostOp, hrefused, settle]⟩
  · have hread := State.memRead_memWriteList (State.Inv.resetSession s).memCanonical 0x200 rom (by omega)
    refine ⟨_, s.loadRom_of_fits hfits, fun k hk => ?_, fun a ha hout => ?_, State.memWriteList_frame _ _ _⟩
    · simp [hread (0x200 + k) (by omega), hk]
    · rw [hread a ha, dif_neg (by omega)]

/-! ### Saving a snapshot -/

theorem wordAt_toNat (bs : List Byte) (k : Nat) :
    (wordAt bs k).toNat = (byteAt bs k).toNat * 256 + (byteAt bs (k + 1)).toNat :=
  wordOfBytes_toNat _ _

/-- Settles O26, section by section. -/
theorem snapshotLayoutIsFixed : Obligations.SnapshotLayoutIsFixed := by
  intro s
  refine ⟨rfl, s.length_saved9, s.save_header, fun _ => s.save_mem, fun r => s.save_V r.isLt, ?_, ?_, ?_, fun k => ?_,
    s.save_DT, s.save_ST, fun _ _ => s.save_disp⟩
  · rw [← wordAt_toNat, s.save_I]
  · rw [← wordAt_toNat, s.save_PC]
  · rw [s.save_SP, BitVec.toNat_ofNat]; omega
  · rw [Fin.getElem_fin, ← s.save_stack k.isLt, wordAt_toNat, Nat.add_right_comm]

/-! ### Loading a snapshot -/

/-- The checks of R243 fail exactly on the ill-formed bytes. -/
theorem snapshotValid_iff_not_illFormed (bs : List Byte) : snapshotValid bs = true ↔ ¬snapshotIllFormed bs := by
  simp only [snapshotValid_iff, snapshotIllFormed, not_or, not_not, not_lt, not_exists, not_and]

theorem State.loadSnapshot_of_illFormed (s : State) {bs : List Byte} (h : snapshotIllFormed bs) :
    s.loadSnapshot bs = .error .snapshotFormat :=
  if_neg fun hvalid => (snapshotValid_iff_not_illFormed bs).1 hvalid h

theorem State.loadSnapshot_of_valid (s : State) {bs : List Byte} (h : snapshotValid bs = true) :
    s.loadSnapshot bs = .ok (s.restoreSnapshot bs) := if_pos h

namespace State

section Restored
variable (s : State) (bs : List Byte)

/-! What the restored fields hold, each by its offset of R241. -/

@[simp] theorem restoreSnapshot_getV (r : RegIdx) : (s.restoreSnapshot bs).getV r = byteAt bs (4129 + r.toNat) := by
  simp [getV, restoreSnapshot, offV_eq]

@[simp] theorem restoreSnapshot_I : (s.restoreSnapshot bs).I = wordAt bs 4145 := rfl
@[simp] theorem restoreSnapshot_PC : (s.restoreSnapshot bs).PC = wordAt bs 4147 := rfl
@[simp] theorem restoreSnapshot_DT : (s.restoreSnapshot bs).DT = byteAt bs 4182 := rfl
@[simp] theorem restoreSnapshot_ST : (s.restoreSnapshot bs).ST = byteAt bs 4183 := rfl

@[simp] theorem restoreSnapshot_params : (s.restoreSnapshot bs).params = s.params := by
  simp only [restoreSnapshot]

@[simp] theorem restoreSnapshot_stack (k : Fin 16) : (s.restoreSnapshot bs).stack[k] = wordAt bs (4150 + 2 * k.val) := by
  simp [restoreSnapshot, offStack_eq]

/-- SP is the byte saved for it, which the checks of R243 bound. -/
theorem restoreSnapshot_SP {bs : List Byte} (h : snapshotValid bs = true) :
    (s.restoreSnapshot bs).SP.val = (byteAt bs 4149).toNat := by
  obtain ⟨-, -, -, hSP, -⟩ := (snapshotValid_iff bs).1 h
  exact Nat.mod_eq_of_lt (a := (byteAt bs 4149).toNat) (by omega)

theorem restoreSnapshot_pixelAt {x y : Nat} (hx : x < 64) (hy : y < 32) :
    pixelAt (s.restoreSnapshot bs).disp x y = (byteAt bs (4184 + 8 * y + x / 8)).getLsbD (7 - x % 8) := by
  simp [pixelAt, restoreSnapshot, dispOfBytes, offDisp_eq, Nat.mod_eq_of_lt hx, Nat.mod_eq_of_lt hy]

/-- R244: only the snapshot content, `dirty` and the key wait are written. -/
theorem restoreSnapshot_frame :
    s.restoreSnapshot bs =
      { s with mem := (s.restoreSnapshot bs).mem, V := (s.restoreSnapshot bs).V, I := (s.restoreSnapshot bs).I,
               PC := (s.restoreSnapshot bs).PC, SP := (s.restoreSnapshot bs).SP, stack := (s.restoreSnapshot bs).stack,
               DT := (s.restoreSnapshot bs).DT, ST := (s.restoreSnapshot bs).ST, disp := (s.restoreSnapshot bs).disp,
               dirty := (s.restoreSnapshot bs).dirty, waitActive := (s.restoreSnapshot bs).waitActive,
               waitPrev := (s.restoreSnapshot bs).waitPrev } := by
  simp only [restoreSnapshot]

end Restored

end State

/-- Settles O28, by the checks of R243 and the restored fields. -/
theorem loadSnapshotIsAllOrNothing : Obligations.LoadSnapshotIsAllOrNothing := by
  intro s bs
  refine ⟨fun hill => ?_, fun hwell => ?_⟩
  · have hrefused := s.loadSnapshot_of_illFormed hill
    exact ⟨hrefused, by rw [hostOp, hrefused, settle]⟩
  · have hvalid := (snapshotValid_iff_not_illFormed bs).2 hwell
    have hload := s.loadSnapshot_of_valid hvalid
    exact ⟨_, hload, by rw [hostOp, hload, settle], fun _ => s.memRead_restoreSnapshot bs, s.restoreSnapshot_getV bs,
      s.restoreSnapshot_I bs, s.restoreSnapshot_PC bs, s.restoreSnapshot_SP hvalid, s.restoreSnapshot_stack bs,
      s.restoreSnapshot_DT bs, s.restoreSnapshot_ST bs, fun _ _ => s.restoreSnapshot_pixelAt bs, rfl, rfl, noKeys_getElem,
      s.restoreSnapshot_frame bs⟩

/-- Settles O27: each restored field is read from the bytes that saved it. -/
theorem loadOfSaveRestoresTheState : Obligations.LoadOfSaveRestoresTheState := by
  intro s u hs hparams
  have hvalid := s.snapshotValid_save hs.pcInRange hs.stackInRange
  refine ⟨_, u.loadSnapshot_of_valid hvalid, ?_, ?_, (u.restoreSnapshot_I _).trans s.save_I,
    (u.restoreSnapshot_PC _).trans s.save_PC, ?_, ?_, (u.restoreSnapshot_DT _).trans s.save_DT,
    (u.restoreSnapshot_ST _).trans s.save_ST, ?_⟩
  · have hwf := u.restoreSnapshot_wf s.saveSnapshot
    rw [hparams] at hwf
    refine hwf.ext hs.memCanonical fun a ha => ?_
    have hread := (u.memRead_restoreSnapshot s.saveSnapshot ha).trans (s.save_mem ha)
    rw [State.memRead, State.memRead, Nat.mod_eq_of_lt ha, State.restoreSnapshot_params, hparams] at hread
    exact hread
  · refine State.V_ext fun r => ?_
    rw [u.restoreSnapshot_getV, s.save_V r.isLt]; rfl
  · refine Fin.ext ?_
    rw [u.restoreSnapshot_SP hvalid, s.save_SP, BitVec.toNat_ofNat]; omega
  · refine Vector.ext fun k hk => ?_
    exact (u.restoreSnapshot_stack _ ⟨k, hk⟩).trans (s.save_stack hk)
  · refine grid_ext fun x y hx hy => ?_
    rw [u.restoreSnapshot_pixelAt _ hx hy, s.save_disp hx hy]

/-! ### Entry into a fatal condition -/

/-- The causes of the conditions an instruction can raise (R202 to R205). -/
inductive Raises (s : State) : Instr → ErrKind → Prop where
  | sys (nnn : Addr) (h : s.params.sysPolicy = .fatal) : Raises s (.sys nnn) .unknownOpcode
  | call (nnn : Addr) (h : s.SP.val = 16) : Raises s (.call nnn) .stackOverflow
  | ret (h : s.SP.val = 0) : Raises s .ret .stackUnderflow
  | jpV0 (nnn : Addr) (h : 0xFFF < s.offsetTarget nnn ∧ s.params.jumpOverflow = .fault) :
      Raises s (.jpV0 nnn) .addressOutOfRange

/-- An instruction leaves `halted` alone, or has a cause to raise a condition and does nothing else. -/
theorem exec_halted_eq_or_raised {i : Instr} {s t : State} (h : exec i s = .next t) :
    t.halted = s.halted ∨ ∃ k, Raises s i k ∧ t = s.raise k (encode i) := by
  cases i with
  | sys nnn =>
    cases hpolicy : s.params.sysPolicy
    · cases (exec_sys_of_fatal hpolicy).symm.trans h; exact .inr ⟨_, .sys nnn hpolicy, rfl⟩
    · cases (exec_sys_of_nop hpolicy).symm.trans h; exact .inl rfl
  | call nnn =>
    by_cases hfull : s.SP.val = 16
    · cases (exec_call_of_full hfull).symm.trans h; exact .inr ⟨_, .call nnn hfull, rfl⟩
    · cases (exec_call_of_room hfull).symm.trans h; exact .inl rfl
  | ret =>
    by_cases hempty : s.SP.val = 0
    · cases (exec_ret_of_empty hempty).symm.trans h; exact .inr ⟨_, .ret hempty, rfl⟩
    · cases (exec_ret_of_nonempty hempty).symm.trans h; exact .inl rfl
  | jpV0 nnn =>
    by_cases hfault : 0xFFF < s.offsetTarget nnn ∧ s.params.jumpOverflow = .fault
    · cases (exec_jpV0_of_fault hfault).symm.trans h; exact .inr ⟨_, .jpV0 nnn hfault, rfl⟩
    · cases (exec_jpV0_of_jump hfault).symm.trans h; exact .inl rfl
  | seImm | sneImm | seReg | sneReg | skp | sknp => cases h; exact .inl (State.skipIf_halted _ _)
  | ldVxK x => rcases execLdVxK_effect h with rfl | rfl | ⟨v, rfl⟩ <;> exact .inl rfl
  | ldStore x => cases h; rw [s.storeRegs_frame]; exact .inl rfl
  | ldLoad x => cases h; rw [s.loadRegs_frame]; exact .inl rfl
  | _ => cases h; exact .inl rfl

/-- Settles O54: `halted` was 0, so the instruction raised its condition. -/
theorem fatalEntryIsPrecise : Obligations.FatalEntryIsPrecise := by
  intro i s t hrun h hhalt
  have hne : t.halted ≠ s.halted := by simp [hrun, hhalt]
  obtain ⟨k, hcause, rfl⟩ := (exec_halted_eq_or_raised h).resolve_left hne
  refine ⟨s.raise_enteredFatal k (encode i), ?_⟩
  cases hcause with
  | sys nnn hpolicy => exact .inl ⟨rfl, hpolicy, nnn, rfl⟩
  | call nnn hfull => exact .inr (.inl ⟨rfl, hfull, nnn, rfl⟩)
  | ret hempty => exact .inr (.inr (.inl ⟨rfl, hempty, rfl⟩))
  | jpV0 nnn hfault => exact .inr (.inr (.inr ⟨rfl, hfault.2, nnn, rfl, hfault.1⟩))

end Sys2Proof.Machine
end

section
/-! SUPPORT. Proofs of the statements about reset and the timers' hazards (70_reset_and_hazards.md R251, R262). -/

namespace Sys2Proof.Machine

/-! ### A timer at its greatest value -/

/-- R225: the value left of 255 after `n` decrements floored at 0 is 0 exactly from the 255th on. -/
theorem eq_zero_iff_of_toNat_eq_255_sub {v : Byte} {n : Nat} (h : v.toNat = 255 - n) : v = 0#8 ↔ 255 ≤ n := by
  rw [← BitVec.toNat_inj, h]
  exact Nat.sub_eq_zero_iff_le

/-- Settles O19: `n` ticks leave 255 - n in either timer. -/
theorem timerAt255TakesExactly255Ticks : Obligations.TimerAt255TakesExactly255Ticks := by
  intro s n
  obtain ⟨hDT, hST, hdone, -, -⟩ := State.runTimerTicks_spec n s
  refine ⟨hdone, fun h => ?_, fun h => ?_⟩
  · rw [h] at hDT
    exact ⟨eq_zero_iff_of_toNat_eq_255_sub hDT, hDT⟩
  · rw [h] at hST
    exact ⟨eq_zero_iff_of_toNat_eq_255_sub hST, hST⟩

/-! ### Reset -/

theorem Memory.resetByte_of_font (font : Font) {a : Nat} (h : a < 80) : Memory.resetByte font a = font[a] := dif_pos h

theorem Memory.resetByte_of_aboveFont (font : Font) {a : Nat} (h : 80 ≤ a) : Memory.resetByte font a = 0#8 :=
  dif_neg (by omega)

namespace State

variable (s : State)

/-- R251: after Reset no address has been written, so each reads as its reset contents. -/
theorem memRead_resetSession {a : Nat} (h : a < 4096) : s.resetSession.memRead a = Memory.resetByte s.params.font a :=
  congrArg (Memory.resetByte s.params.font) (Nat.mod_eq_of_lt h)

theorem getV_resetSession (r : RegIdx) : s.resetSession.getV r = 0#8 := Vector.getElem_replicate _

theorem stack_resetSession (k : Fin 16) : s.resetSession.stack[k] = 0#16 := Vector.getElem_replicate _

theorem waitPrev_resetSession (k : Fin 16) : s.resetSession.waitPrev[k] = false := Vector.getElem_replicate _

end State

/-- Settles O20: memory reads as its reset contents, the arrays are constant, and every other field is a literal. -/
theorem resetWritesEveryField : Obligations.ResetWritesEveryField := by
  intro s
  refine ⟨fun a h => ?_, fun a hfont ha => ?_, s.getV_resetSession, rfl, rfl, rfl, s.stack_resetSession, rfl, rfl, rfl,
    pixelAt_blankGrid, rfl, s.waitPrev_resetSession, rfl, rfl, rfl, rfl, rfl, rfl, rfl, rfl, rfl⟩
  · rw [s.memRead_resetSession (by omega), Memory.resetByte_of_font _ h]
  · rw [s.memRead_resetSession ha, Memory.resetByte_of_aboveFont _ hfont]

end Sys2Proof.Machine
end
